-- ==== Sys2Proof/Word.lean ====
section
/-! DEFINITION. The word types of the block: bytes, 16-bit quantities (the `CRC` register, TLV values, command words),
32-bit words (SHA-256) and byte strings (spec/00_scope, Notation; spec/20_memory R48). -/

namespace Sys2Proof

/-- A byte: "8 bits, value 0..255" (spec/00_scope, Notation). -/
abbrev Byte := BitVec 8

/-- A 16-bit quantity: the `CRC` register (R13), a parameter value (R22), a command word (R72). -/
abbrev Half := BitVec 16

/-- A 32-bit word of SHA-256 (R171). -/
abbrev Word := BitVec 32

/-- A byte string: "a finite sequence of bytes" (spec/00_scope, Notation). -/
abbrev Bytes := List Byte

end Sys2Proof
end

