-- ==== Sys2Proof/Config.lean ====
section
/-! DEFINITION. The configuration of the block (spec/00_scope R8, spec/10_state R12): fixed before the first command, changed
by no command, not state. What the spec leaves OPEN is an opaque constant, so that every statement holds for every value. -/

namespace Sys2Proof

/-- `MAX_OPERAND`, the largest byte-string operand: the spec's default (R8, D2). -/
def Config.maxOperand : Nat := 65535

/-- `OBUF_SIZE`, the capacity of the output buffer: the spec's default, "at least `2*MAX_OPERAND + 2`" (R8, D2). -/
def Config.obufSize : Nat := 131072

/-- A name: ASCII characters as bytes (D35; R251 and R260 for the monitor profile). -/
abbrev Name := Bytes

/-- The three tag tables the source requires and never lists (R8; N1, N2, N3). -/
structure TlvTables where
  /-- `TWO_BYTE_TAGS` (R111). -/
  twoByteTags : List Byte
  /-- `TLV_PRIORITY` (R119). -/
  priority : List Byte
  /-- `TLV_NAMES`, a partial map: the first entry of a tag counts (R116). -/
  names : List (Byte × Name)
deriving DecidableEq, Repr, Inhabited

/-- OPEN: the tag tables of this block (R8). DESIGN CHOICE: an opaque constant (notes/assumptions/5.md). -/
opaque Config.tables : TlvTables

/-- Where a bit of the monitor view is read (R251): the `alarms` or the `switches` byte array. -/
inductive BitSource where
  | alarms
  | switches
deriving DecidableEq, Repr, Inhabited

/-- The four code fields of a monitor record (R252, R253). -/
inductive CodeField where
  | status
  | action
  | progress
  | accessory
deriving DecidableEq, Repr, Inhabited

/-- A flag definition `(source, byte, bit, invert)` (R251). -/
structure FlagDef where
  source : BitSource
  byte   : Nat
  bit    : Nat
  invert : Bool
deriving DecidableEq, Repr, Inhabited

/-- A predicate definition: the closed set of eight kinds (R253). -/
inductive Predicate where
  | equals    (field : CodeField) (value : Byte)
  | notEquals (field : CodeField) (value : Byte)
  | inSet     (field : CodeField) (values : List Byte)
  | notInSet  (field : CodeField) (values : List Byte)
  | flagTrue  (flag : Name)
  | flagFalse (flag : Name)
  | bitSet    (source : BitSource) (byte bit : Nat)
  | bitClear  (source : BitSource) (byte bit : Nat)
deriving DecidableEq, Repr, Inhabited

/-- A monitor profile: `FLAGS`, `ENUMS`, `PREDICATES` (R250 to R253), each a finite map as a list whose first entry of a key
counts (DESIGN CHOICE for a list with a repeated key, notes/assumptions/12.md). -/
structure MonitorProfile where
  flags      : List (Name × FlagDef)
  enums      : List ((CodeField × Byte) × Name)
  predicates : List (Name × Predicate)
deriving DecidableEq, Repr, Inhabited

/-- OPEN: the monitor profile supplied for loading (R250; N13), none when none is supplied; `loadedProfile` of Machine/View.lean is what the
view uses after the validation of R254. DESIGN CHOICE: an opaque constant (notes/assumptions/12.md). -/
opaque Config.monitorProfile : Option MonitorProfile

end Sys2Proof
end

