-- ==== Sys2Proof/Syntax.lean ====
section
/-! DEFINITION. The syntax of the block: one constructor of `Instr` for each row of spec/opcode_table.json (the 22 commands of
spec/30_encoding R62, the five wire-frame rows of R67 to R70 and the two TLV-entry rows of R71), and what a host can offer. -/

namespace Sys2Proof

/-- A parameter mapping, tag to value (R22, R110), as the list of its entries with tags strictly rising: "Two mappings are equal
when they have the same tags with the same values", so that equal mappings are equal data. -/
abbrev ParamMap := List (Byte × Half)

/-- The fields of a wire monitor frame with length byte 18 (R68 and the `frame.monitor` row): "optional trailing 4-byte timestamp
and extra bytes" stand together in `trailing`. -/
structure MonitorFrame where
  direction      : Byte
  requestId      : Byte
  answerRequired : Byte
  accessory      : Byte
  switches       : Vector Byte 2
  alarmsLo       : Vector Byte 2
  status         : Byte
  action         : Byte
  progress       : Byte
  alarmsHi       : Vector Byte 2
  rsv            : Vector Byte 3
  crc            : Half
  trailing       : Bytes
deriving DecidableEq, Repr

/-- The instructions: one constructor for each row of the opcode table. -/
inductive Instr where
  /-- `NOP` (R280). -/
  | nop
  /-- `RESET` (R301). -/
  | reset
  /-- `CRC16 data` (R103). -/
  | crc16 (data : Bytes)
  /-- `CRC_INIT` (R104). -/
  | crcInit
  /-- `CRC_UPD data` (R105). -/
  | crcUpd (data : Bytes)
  /-- `TLV_DEC data` (R112). -/
  | tlvDec (data : Bytes)
  /-- `TLV_ENC params` (R114). -/
  | tlvEnc (params : ParamMap)
  /-- `TLV_NAME tag` (R117). -/
  | tlvName (tag : Byte)
  /-- `MON_DEC frame` (R137). -/
  | monDec (frame : Bytes)
  /-- `RCP_DEC frame` (R143). -/
  | rcpDec (frame : Bytes)
  /-- `PROP_DEC frame` (R148). -/
  | propDec (frame : Bytes)
  /-- `BREW bev_id, trigger, params` (R163). -/
  | brew (bevId trigger : Byte) (params : ParamMap)
  /-- `SETKEY key` (R188). -/
  | setKey (key : Bytes)
  /-- `DERIVE app_random, device_random, app_time, device_time` (R189). -/
  | derive (appRandom deviceRandom appTime deviceTime : Bytes)
  /-- `EXPIRE` (R190). -/
  | expire
  /-- `ENC plaintext` (R223). -/
  | enc (plaintext : Bytes)
  /-- `DEC ciphertext` (R225). -/
  | dec (ciphertext : Bytes)
  /-- `SIGN plaintext` (R227). -/
  | sign (plaintext : Bytes)
  /-- `B64E data` (R242). -/
  | b64e (data : Bytes)
  /-- `B64D text` (R244). -/
  | b64d (text : Bytes)
  /-- `HEXE data` (R246). -/
  | hexe (data : Bytes)
  /-- `HEXD text` (R247). -/
  | hexd (text : Bytes)
  /-- `frame.brew`: the brew command frame (R67, R161). -/
  | frameBrew (length bevId trigger : Byte) (tlv : Bytes) (crc : Half)
  /-- `frame.recipe_profile`: the profile-scoped recipe frame (R69, R142). -/
  | frameRecipeProfile (length profile bevId : Byte) (tlv : Bytes) (crc : Half)
  /-- `frame.recipe_default`: the default recipe frame (R69, R142). -/
  | frameRecipeDefault (length bevId : Byte) (tlv : Bytes) (crc : Half)
  /-- `frame.property`: the generic D0 property frame (R70, R147). -/
  | frameProperty (length : Byte) (opcode : Half) (payload : Bytes) (crc : Half)
  /-- `frame.monitor`: the monitor/status frame (R68, R136). -/
  | frameMonitor (frame : MonitorFrame)
  /-- `tlv.entry1`: a TLV entry of a one-byte tag (R71, R118). -/
  | tlvEntry1 (tag value : Byte)
  /-- `tlv.entry2`: a TLV entry of a two-byte tag (R71, R118). -/
  | tlvEntry2 (tag : Byte) (value : Half)
deriving DecidableEq, Repr

/-- The wire formats of the opcode table (R66 to R71). -/
inductive WireKind where
  | brew
  | recipeProfile
  | recipeDefault
  | property
  | monitor
  | tlvEntry
deriving DecidableEq, Repr

/-- What stands at the command port. `descriptor` is the spec's one form of command (R60). `wire` is the model's own form for the
wire rows of the opcode table: the bytes with the format the host picked, since "which family a frame belongs to is **not** decided
by the block" (R74). DESIGN CHOICE (notes/assumptions/3.md). -/
inductive Offer where
  | descriptor (bytes : Bytes)
  | wire (kind : WireKind) (bytes : Bytes)
deriving DecidableEq, Repr

end Sys2Proof
end

