-- ==== Sys2Proof/WellFormed.lean ====
section
/-! DEFINITION. When a term of `Instr` stands for something a host can offer: operands that the descriptor encoding of
spec/30_encoding R63 can carry, mappings in canonical form (R22), wire units the block can hold as one operand (R8, R71). -/

namespace Sys2Proof

/-- A mapping is in canonical form: tags strictly rising, hence each tag at most once (R22). -/
abbrev ParamMap.Sorted (m : ParamMap) : Prop := m.Pairwise (fun a b => a.1 < b.1)

/-- A `bytes` operand the 2-byte length field can carry, at most `MAX_OPERAND` (R63, R64). -/
def operandFits (b : Bytes) : Bool := decide (b.length ≤ Config.maxOperand)

/-- `width(t)`: 2 if `t` is in `TWO_BYTE_TAGS`, else 1; "Nothing else decides the width" (R111). -/
def TlvTables.width (c : TlvTables) (t : Byte) : Nat := if t ∈ c.twoByteTags then 2 else 1

/-- Well-formed instructions. A wire frame is well-formed when its bytes fit one operand: 8 is the size of a brew or
profile-scoped frame around its TLV region, 7 of a default one, 6 of a property frame, 19 of a monitor frame (R67 to R70). -/
def Instr.wellFormed : Instr → Bool
  | .nop => true
  | .reset => true
  | .crc16 d => operandFits d
  | .crcInit => true
  | .crcUpd d => operandFits d
  | .tlvDec d => operandFits d
  | .tlvEnc m => decide m.Sorted
  | .tlvName _ => true
  | .monDec f => operandFits f
  | .rcpDec f => operandFits f
  | .propDec f => operandFits f
  | .brew _ _ m => decide m.Sorted
  | .setKey k => operandFits k
  | .derive ar dr atm dtm => operandFits ar && operandFits dr && operandFits atm && operandFits dtm
  | .expire => true
  | .enc p => operandFits p
  | .dec c => operandFits c
  | .sign p => operandFits p
  | .b64e d => operandFits d
  | .b64d t => operandFits t
  | .hexe d => operandFits d
  | .hexd t => operandFits t
  | .frameBrew _ _ _ tlv _ => decide (tlv.length + 8 ≤ Config.maxOperand)
  | .frameRecipeProfile _ _ _ tlv _ => decide (tlv.length + 8 ≤ Config.maxOperand)
  | .frameRecipeDefault _ _ tlv _ => decide (tlv.length + 7 ≤ Config.maxOperand)
  | .frameProperty _ _ payload _ => decide (payload.length + 6 ≤ Config.maxOperand)
  | .frameMonitor f => decide (f.trailing.length + 19 ≤ Config.maxOperand)
  | .tlvEntry1 t _ => Config.tables.width t == 1
  | .tlvEntry2 t _ => Config.tables.width t == 2

end Sys2Proof
end

