-- ==== Sys2Proof/Decode.lean ====
section
/-! DEFINITION. The decoder of command descriptors (spec/30_encoding R60, R63 to R65) and of wire units (R67 to R71), total on any
bytes and rejecting by name; after it the encoder, written from the same tables; and the opcode-table interface `decodeTableWord`. -/

namespace Sys2Proof

/-! ## Byte order and the parameter mapping -/

/-- `be16(hi, lo)`: two bytes read big-endian (spec/00_scope Notation, R43). -/
def be16 (hi lo : Byte) : Half := hi ++ lo

/-- `hi8(v)`: bits 15 to 8. -/
def hi8 (v : Half) : Byte := (v >>> 8).setWidth 8

/-- `lo8(v)`: bits 7 to 0. -/
def lo8 (v : Half) : Byte := v.setWidth 8

/-- `m[t] <- v`: insert or overwrite, keeping the tags rising (R22, R63, R118). -/
def ParamMap.set : ParamMap → Byte → Half → ParamMap
  | [], t, v => [(t, v)]
  | (u, w) :: m, t, v =>
    if t < u then (t, v) :: (u, w) :: m
    else if t = u then (t, v) :: m
    else (u, w) :: ParamMap.set m t v

/-- `m[t]`, none when `t` is not in `dom(m)`. -/
def ParamMap.get? : ParamMap → Byte → Option Half
  | [], _ => none
  | (u, w) :: m, t => if t = u then some w else ParamMap.get? m t

/-! ## Operands of a descriptor (R63) -/

/-- A `u8` operand: one byte. -/
def takeU8 : Bytes → Option (Byte × Bytes)
  | [] => none
  | b :: rest => some (b, rest)

/-- A `bytes` operand: a 2-byte big-endian length `N`, then `N` bytes. -/
def takeBytes : Bytes → Option (Bytes × Bytes)
  | h :: l :: rest =>
    if (be16 h l).toNat ≤ rest.length then some (rest.take (be16 h l).toNat, rest.drop (be16 h l).toNat) else none
  | _ => none

/-- `C` entries `tag, v_hi, v_lo` read into `m` in order: "a later entry with the same tag overwrites an earlier one" (R63). -/
def readEntries : Nat → Bytes → ParamMap → ParamMap
  | n + 1, t :: hi :: lo :: rest, m => readEntries n rest (m.set t (be16 hi lo))
  | _, _, m => m

/-- A `pmap` operand: a 2-byte big-endian count `C`, then `C` entries of 3 bytes. -/
def takePmap : Bytes → Option (ParamMap × Bytes)
  | h :: l :: rest =>
    if 3 * (be16 h l).toNat ≤ rest.length
    then some (readEntries (be16 h l).toNat rest [], rest.drop (3 * (be16 h l).toNat)) else none
  | _ => none

/-! ## Descriptors -/

/-- Why bytes are not an instruction; every one of these makes the command `raise BADCMD` (R64). -/
inductive DecodeError where
  /-- An empty descriptor. -/
  | empty
  /-- An opcode byte that R62 does not list (R65). -/
  | reservedOpcode (op : Byte)
  /-- An operand runs past the end of the descriptor. -/
  | truncated
  /-- Bytes are left over after the last operand. -/
  | trailing
  /-- The bytes are not a unit of the wire format they were offered as (R67 to R71). -/
  | notOfFormat (kind : WireKind)
deriving DecidableEq, Repr

/-- "with nothing after the last operand" (R60). -/
def finish (i : Instr) : Bytes → Except DecodeError Instr
  | [] => .ok i
  | _ :: _ => .error .trailing

/-- Read one operand and go on with the rest, or stop at a truncated operand (R63). -/
def operandThen {α : Type} (r : Option (α × Bytes)) (k : α → Bytes → Except DecodeError Instr) : Except DecodeError Instr :=
  match r with
  | none => .error .truncated
  | some (v, rest) => k v rest

/-- A descriptor whose only operand is one byte string. -/
def decodeOneBytes (ctor : Bytes → Instr) (rest : Bytes) : Except DecodeError Instr :=
  operandThen (takeBytes rest) fun d r => finish (ctor d) r

/-- `decode(D)` of R63: the opcode byte selects the row of R62, then its operands in order. -/
def decode : Bytes → Except DecodeError Instr
  | [] => .error .empty
  | op :: rest =>
    match op.toNat with
    | 0x00 => finish .nop rest
    | 0x01 => finish .reset rest
    | 0x10 => decodeOneBytes .crc16 rest
    | 0x11 => finish .crcInit rest
    | 0x12 => decodeOneBytes .crcUpd rest
    | 0x20 => decodeOneBytes .tlvDec rest
    | 0x21 => operandThen (takePmap rest) fun m r => finish (.tlvEnc m) r
    | 0x22 => operandThen (takeU8 rest) fun t r => finish (.tlvName t) r
    | 0x30 => decodeOneBytes .monDec rest
    | 0x31 => decodeOneBytes .rcpDec rest
    | 0x32 => decodeOneBytes .propDec rest
    | 0x40 =>
      operandThen (takeU8 rest) fun bev r₁ =>
      operandThen (takeU8 r₁) fun trig r₂ =>
      operandThen (takePmap r₂) fun m r₃ => finish (.brew bev trig m) r₃
    | 0x50 => decodeOneBytes .setKey rest
    | 0x51 =>
      operandThen (takeBytes rest) fun ar r₁ =>
      operandThen (takeBytes r₁) fun dr r₂ =>
      operandThen (takeBytes r₂) fun atm r₃ =>
      operandThen (takeBytes r₃) fun dtm r₄ => finish (.derive ar dr atm dtm) r₄
    | 0x52 => finish .expire rest
    | 0x60 => decodeOneBytes .enc rest
    | 0x61 => decodeOneBytes .dec rest
    | 0x62 => decodeOneBytes .sign rest
    | 0x70 => decodeOneBytes .b64e rest
    | 0x71 => decodeOneBytes .b64d rest
    | 0x72 => decodeOneBytes .hexe rest
    | 0x73 => decodeOneBytes .hexd rest
    | _ => .error (.reservedOpcode op)

/-! ## Wire units -/

/-- The last two bytes are the CRC field, high byte first (R66, R140); none for fewer than two bytes. -/
def splitCrc (b : Bytes) : Option (Bytes × Half) :=
  if b.length < 2 then none
  else some (b.take (b.length - 2), be16 (b.getD (b.length - 2) 0) (b.getD (b.length - 1) 0))

/-- The body of a wire frame up to its CRC field, or the name of the format it does not have. -/
def crcThen (kind : WireKind) (b : Bytes) (ctor : Bytes → Half → Instr) : Except DecodeError Instr :=
  match splitCrc b with
  | none => .error (.notOfFormat kind)
  | some (body, crc) => .ok (ctor body crc)

/-- A wire unit read as the format the host picked: only the bytes that the row of spec/opcode_table.json fixes are compared; length
byte and CRC are fields (the lenient reading of R140; `frame.monitor` fixes its length byte, 18). -/
def decodeWire : WireKind → Bytes → Except DecodeError Instr
  | .brew, m :: len :: c₁ :: c₂ :: bev :: trig :: rest =>
    if m = 0x0D ∧ c₁ = 0x83 ∧ c₂ = 0xF0 then crcThen .brew rest (.frameBrew len bev trig)
    else .error (.notOfFormat .brew)
  | .recipeProfile, m :: len :: c₁ :: c₂ :: prof :: bev :: rest =>
    if m = 0xD0 ∧ c₁ = 0xA6 ∧ c₂ = 0xF0 then crcThen .recipeProfile rest (.frameRecipeProfile len prof bev)
    else .error (.notOfFormat .recipeProfile)
  | .recipeDefault, m :: len :: c₁ :: c₂ :: bev :: rest =>
    if m = 0xD0 ∧ c₁ = 0xB0 ∧ c₂ = 0xF0 then crcThen .recipeDefault rest (.frameRecipeDefault len bev)
    else .error (.notOfFormat .recipeDefault)
  | .property, m :: len :: o₁ :: o₂ :: rest =>
    if m = 0xD0 then crcThen .property rest (.frameProperty len (be16 o₁ o₂))
    else .error (.notOfFormat .property)
  | .monitor, d :: len :: req :: ans :: acc :: s₀ :: s₁ :: a₀ :: a₁ :: st :: act :: pr :: a₂ :: a₃ :: r₀ :: r₁ :: r₂ :: k₁ :: k₀ :: tail =>
    if len = 18 then
      .ok (.frameMonitor
        { direction := d, requestId := req, answerRequired := ans, accessory := acc, switches := #v[s₀, s₁],
          alarmsLo := #v[a₀, a₁], status := st, action := act, progress := pr, alarmsHi := #v[a₂, a₃],
          rsv := #v[r₀, r₁, r₂], crc := be16 k₁ k₀, trailing := tail })
    else .error (.notOfFormat .monitor)
  | .tlvEntry, [t, v] => if Config.tables.width t = 1 then .ok (.tlvEntry1 t v) else .error (.notOfFormat .tlvEntry)
  | .tlvEntry, [t, hi, lo] =>
    if Config.tables.width t = 2 then .ok (.tlvEntry2 t (be16 hi lo)) else .error (.notOfFormat .tlvEntry)
  | kind, _ => .error (.notOfFormat kind)

/-- What the block reads from an offer: a descriptor by R63, a wire unit by the format it is offered as. -/
def decodeOffer : Offer → Except DecodeError Instr
  | .descriptor d => decode d
  | .wire kind b => decodeWire kind b

/-! ## The encoder -/

/-- A 2-byte big-endian length or count (R63). -/
def len16 (n : Nat) : Bytes := [hi8 (BitVec.ofNat 16 n), lo8 (BitVec.ofNat 16 n)]

/-- A `bytes` operand (R63). -/
def encodeBytes (b : Bytes) : Bytes := len16 b.length ++ b

/-- A `pmap` operand (R63); "The order of entries carries no other meaning", so the entries go out in the mapping's own order. -/
def encodePmap (m : ParamMap) : Bytes := len16 m.length ++ m.flatMap fun e => [e.1, hi8 e.2, lo8 e.2]

/-- The bytes of an instruction: the descriptor of a command (R60, R62, R63), the wire bytes of a frame or TLV entry (R67 to R71). -/
def encode : Instr → Bytes
  | .nop => [0x00]
  | .reset => [0x01]
  | .crc16 d => 0x10 :: encodeBytes d
  | .crcInit => [0x11]
  | .crcUpd d => 0x12 :: encodeBytes d
  | .tlvDec d => 0x20 :: encodeBytes d
  | .tlvEnc m => 0x21 :: encodePmap m
  | .tlvName t => [0x22, t]
  | .monDec f => 0x30 :: encodeBytes f
  | .rcpDec f => 0x31 :: encodeBytes f
  | .propDec f => 0x32 :: encodeBytes f
  | .brew bev trig m => 0x40 :: bev :: trig :: encodePmap m
  | .setKey k => 0x50 :: encodeBytes k
  | .derive ar dr atm dtm => 0x51 :: (encodeBytes ar ++ encodeBytes dr ++ encodeBytes atm ++ encodeBytes dtm)
  | .expire => [0x52]
  | .enc p => 0x60 :: encodeBytes p
  | .dec c => 0x61 :: encodeBytes c
  | .sign p => 0x62 :: encodeBytes p
  | .b64e d => 0x70 :: encodeBytes d
  | .b64d t => 0x71 :: encodeBytes t
  | .hexe d => 0x72 :: encodeBytes d
  | .hexd t => 0x73 :: encodeBytes t
  | .frameBrew len bev trig tlv crc => [0x0D, len, 0x83, 0xF0, bev, trig] ++ tlv ++ [hi8 crc, lo8 crc]
  | .frameRecipeProfile len prof bev tlv crc => [0xD0, len, 0xA6, 0xF0, prof, bev] ++ tlv ++ [hi8 crc, lo8 crc]
  | .frameRecipeDefault len bev tlv crc => [0xD0, len, 0xB0, 0xF0, bev] ++ tlv ++ [hi8 crc, lo8 crc]
  | .frameProperty len op payload crc => [0xD0, len, hi8 op, lo8 op] ++ payload ++ [hi8 crc, lo8 crc]
  | .frameMonitor f =>
    [f.direction, 18, f.requestId, f.answerRequired, f.accessory, f.switches[0], f.switches[1], f.alarmsLo[0], f.alarmsLo[1],
      f.status, f.action, f.progress, f.alarmsHi[0], f.alarmsHi[1], f.rsv[0], f.rsv[1], f.rsv[2], hi8 f.crc, lo8 f.crc] ++ f.trailing
  | .tlvEntry1 t v => [t, v]
  | .tlvEntry2 t v => [t, hi8 v, lo8 v]

/-- How the instruction is offered: its bytes at the command port (R60), or as a unit of its wire format. -/
def encodeOffer (i : Instr) : Offer :=
  match i with
  | .frameBrew .. => .wire .brew (encode i)
  | .frameRecipeProfile .. => .wire .recipeProfile (encode i)
  | .frameRecipeDefault .. => .wire .recipeDefault (encode i)
  | .frameProperty .. => .wire .property (encode i)
  | .frameMonitor .. => .wire .monitor (encode i)
  | .tlvEntry1 .. => .wire .tlvEntry (encode i)
  | .tlvEntry2 .. => .wire .tlvEntry (encode i)
  | .nop | .reset | .crc16 .. | .crcInit | .crcUpd .. | .tlvDec .. | .tlvEnc .. | .tlvName .. | .monDec .. | .rcpDec ..
  | .propDec .. | .brew .. | .setKey .. | .derive .. | .expire | .enc .. | .dec .. | .sign .. | .b64e .. | .b64d ..
  | .hexe .. | .hexd .. => .descriptor (encode i)

/-! ## Pseudo-instructions (R77) -/

/-- `STOP bev`, with `bev = 0x10` unless given: `BREW bev, 0x02, {0x0F:250, 0x1B:1}` (R77, R164). -/
def stopCommand (bev : Byte := 0x10) : Instr := .brew bev 0x02 [(0x0F, 250), (0x1B, 1)]

/-- `START bev, params`: `BREW bev, 0x01, params` (R77, D37). -/
def startCommand (bev : Byte) (params : ParamMap) : Instr := .brew bev 0x01 params

/-! ## The opcode table's numbering -/

/-- The families separated by the first four bytes of a frame, read as a 32-bit big-endian word (R74), most specific first. -/
def frameFamily (w : Word) : WireKind :=
  if w &&& 0xFF00FFFF = 0x0D0083F0 then .brew
  else if w &&& 0xFF00FFFF = 0xD000A6F0 then .recipeProfile
  else if w &&& 0xFF00FFFF = 0xD000B0F0 then .recipeDefault
  else if w &&& 0xFF000000 = 0xD0000000 then .property
  else .monitor

/-- The size of the smallest frame of a family (R67 to R70). -/
def WireKind.minSize : WireKind → Nat
  | .brew => 8
  | .recipeProfile => 8
  | .recipeDefault => 7
  | .property => 6
  | .monitor => 19
  | .tlvEntry => 2

/-- The bytes of a number, the first byte in bits 7 to 0. -/
def bytesOfNat : Nat → Nat → Bytes
  | 0, _ => []
  | n + 1, w => BitVec.ofNat 8 w :: bytesOfNat n (w / 256)

/-- Zero bytes appended to a descriptor until it is whole: the shortest extension by at most `fuel` zeros that decodes. -/
def zeroExtend : Nat → Bytes → Bytes
  | 0, d => d
  | fuel + 1, d =>
    match decode d with
    | .ok _ => d
    | .error .truncated => zeroExtend fuel (d ++ [0])
    | .error _ => d

/-- The offer that stands for an opcode-table word: a command row gives 8 bits, the opcode byte, and every operand byte is 0; a frame
row gives the 32-bit big-endian word of frame bytes 0 to 3, and every later byte of its smallest frame is 0. -/
def tableOffer (nbits w : Nat) : Offer :=
  if nbits = 32 then
    let kind := frameFamily (BitVec.ofNat 32 w)
    .wire kind ((bytesOfNat 4 w).reverse ++ List.replicate (kind.minSize - 4) 0)
  else .descriptor (zeroExtend 16 (bytesOfNat ((nbits + 7) / 8) w))

/-- The instruction the decoder reads from an opcode-table word. -/
def decodeTableWord (nbits w : Nat) : Option Instr :=
  match decodeOffer (tableOffer nbits w) with
  | .ok i => some i
  | .error _ => none

end Sys2Proof
end

