-- ==== Sys2Proof/Machine/State.lean ====
section
/-! DEFINITION. The state of the block (spec/10_state R13 to R24), its reset value, the statuses a command can end with
(spec/60_exceptions R270), and the reasons the model stops. State is plain data. -/

namespace Sys2Proof.Machine

/-- The session state `SESS` (R14). -/
inductive Sess where
  /-- `UNINIT`: no secrets have ever been derived since reset. -/
  | uninit
  /-- `DERIVED`: secrets derived, no message encrypted or decrypted with them yet. -/
  | derived
  /-- `ACTIVE`: at least one `ENC` or `DEC` since the last `DERIVE`. -/
  | active
  /-- `EXPIRED`: the secrets were invalidated. -/
  | expired
deriving DecidableEq, Repr

/-- The outcomes of a command: "No other value of `STATUS` ever occurs" (R270). Their codes are `Status.code` of Machine/Ops.lean. -/
inductive Status where
  | ok
  | badCmd
  | operand
  | parseShort
  | parseLength
  | parseCrc
  | parseContents
  | needsRekey
  | authFail
  | noLanKey
  | badB64
  | badHex
deriving DecidableEq, Repr

/-- The condition flags (R19). Their bit numbers are `Flag.bit` of Machine/Flags.lean. -/
inductive Flag where
  | crcOk
  | lenOk
  | lenOvf
  | tsValid
  | profileValid
  | found
deriving DecidableEq, Repr

/-- The monitor record (R136). `switches`, `alarms`, `rsv`, `timestamp` are byte arrays in frame order (R44). -/
structure MonitorRecord where
  direction      : Byte
  length         : Byte
  requestId      : Byte
  answerRequired : Byte
  accessory      : Byte
  switches       : Vector Byte 2
  alarms         : Vector Byte 4
  status         : Byte
  action         : Byte
  progress       : Byte
  rsv            : Vector Byte 3
  crc            : Half
  timestamp      : Option (Vector Byte 4)
  rawlen         : Half
deriving DecidableEq, Repr

/-- The format of a recipe frame (R142). -/
inductive RecipeFormat where
  | unknown
  | profile
  | default
deriving DecidableEq, Repr

/-- The recipe record (R142); `none` is the table's "no value". -/
structure RecipeRecord where
  format      : RecipeFormat
  cmd         : Option Half
  declaredLen : Option Byte
  profile     : Option Byte
  bevId       : Option Byte
  params      : Option ParamMap
deriving DecidableEq, Repr

/-- Whether a property frame was decodable (R145, R147). -/
inductive PropertyKind where
  | none
  | frame
deriving DecidableEq, Repr

/-- The property record (R147); `none` is the table's "no value". -/
structure PropertyRecord where
  kind        : PropertyKind
  opcode      : Option Half
  declaredLen : Option Byte
deriving DecidableEq, Repr

/-- The structured result `RES` (R21): one shape for each row of its table, `none` for no result. -/
inductive Res where
  | none
  | crc (v : Half)
  | params (m : ParamMap)
  | monitor (r : MonitorRecord)
  | rawlen (n : Half)
  | recipe (r : RecipeRecord)
  | property (r : PropertyRecord)
deriving DecidableEq, Repr

/-- The whole state of the block (R13 to R23) and what stands at its command port (R49). An `Option` here is the spec's own `none`,
"a register or field that holds no value" (spec/00_scope, Notation). -/
structure State where
  /-- Commands offered and held, oldest first (R49, R60): the model's form of the command port (notes/assumptions/1.md). -/
  port   : List Offer
  /-- `CRC` (R13). -/
  crc    : Half
  /-- `SESS` (R14). -/
  sess   : Sess
  /-- `LAN_KEY` (R15). -/
  lanKey : Option Bytes
  /-- `K_SIGN` (R16), 32 bytes. -/
  kSign  : Option Bytes
  /-- `K_APP` (R16), 32 bytes. -/
  kApp   : Option Bytes
  /-- `IV_APP` (R16), 16 bytes. -/
  ivApp  : Option Bytes
  /-- `K_DEV` (R16), 32 bytes. -/
  kDev   : Option Bytes
  /-- `IV_DEV` (R16), 16 bytes. -/
  ivDev  : Option Bytes
  /-- `OBUF` (R17); its length is `OLEN`. -/
  obuf   : Bytes
  /-- `STATUS` (R18). -/
  status : Byte
  /-- `FLAGS` (R19). -/
  flags  : Byte
  /-- `RES` (R21). -/
  res    : Res
deriving DecidableEq, Repr

/-- The state after reset (R24, R300); nothing stands at the port: the block "waits for the first command". -/
def State.reset : State where
  port   := []
  crc    := 0x1D0F
  sess   := .uninit
  lanKey := none
  kSign  := none
  kApp   := none
  ivApp  := none
  kDev   := none
  ivDev  := none
  obuf   := []
  status := 0x00
  flags  := 0x00
  res    := .none

/-- The registers that can hold no value (R15, R16). -/
inductive SecretReg where
  | lanKey
  | kSign
  | kApp
  | ivApp
  | kDev
  | ivDev
deriving DecidableEq, Repr

/-- The fields of `RES` (R21, R136, R142, R147). -/
inductive ResField where
  | crc
  | params
  | direction
  | length
  | requestId
  | answerRequired
  | accessory
  | switches
  | alarms
  | status
  | action
  | progress
  | rsv
  | timestamp
  | rawlen
  | format
  | cmd
  | declaredLen
  | profile
  | bevId
  | namedView
  | kind
  | opcode
deriving DecidableEq, Repr

/-- Why the model stops. None of these is a status of the block; `step` can raise only the first. -/
inductive Fault where
  /-- A register that holds `none` was read: raised by `ENC`, `DEC` and `SIGN` when `SESS` says the secrets are there and they are not,
  which R231 (a) rules out. Safe: "reading it is a model fault, not a number" (spec/00_scope, Notation). -/
  | readOfNone (reg : SecretReg)
  /-- The host read `OBUF[i]` with `i >= OLEN`: raised by `hostRead`. Safe (R41). -/
  | obufIndex (i : Nat)
  /-- The host read a field of `RES` that the last command did not produce: raised by `hostRead`. Safe (R21). -/
  | resField (f : ResField)
deriving DecidableEq, Repr

/-- What the model has no meaning for. -/
inductive Refusal where
  /-- An instruction of the opcode table without a meaning; raised by no arm of `exec`. Safe. -/
  | notModelled (mnemonic : String)
deriving DecidableEq, Repr

/-- The result of one instruction or step. -/
abbrev Outcome := Host.Outcome State Fault Refusal

end Sys2Proof.Machine
end

