-- ==== Sys2Proof/Machine/Sha256.lean ====
section
/-! DEFINITION. SHA-256 and HMAC-SHA256 (spec/44_hash_hmac_kdf R170 to R173, R180; the spec's own definitions, which it marks as supplied
from general knowledge, G1 and G2). -/

namespace Sys2Proof.Machine

/-! ## Constants (R170) -/

/-- The eight words of a hash value. -/
structure HashValue where
  a : Word
  b : Word
  c : Word
  d : Word
  e : Word
  f : Word
  g : Word
  h : Word
deriving DecidableEq, Repr

/-- `H0` (R170). -/
def shaInit : HashValue :=
  ⟨0x6a09e667, 0xbb67ae85, 0x3c6ef372, 0xa54ff53a, 0x510e527f, 0x9b05688c, 0x1f83d9ab, 0x5be0cd19⟩

/-- `K[0..63]`, row by row (R170). -/
def shaK : List Word :=
  [0x428a2f98, 0x71374491, 0xb5c0fbcf, 0xe9b5dba5, 0x3956c25b, 0x59f111f1, 0x923f82a4, 0xab1c5ed5]
  ++ [0xd807aa98, 0x12835b01, 0x243185be, 0x550c7dc3, 0x72be5d74, 0x80deb1fe, 0x9bdc06a7, 0xc19bf174]
  ++ [0xe49b69c1, 0xefbe4786, 0x0fc19dc6, 0x240ca1cc, 0x2de92c6f, 0x4a7484aa, 0x5cb0a9dc, 0x76f988da]
  ++ [0x983e5152, 0xa831c66d, 0xb00327c8, 0xbf597fc7, 0xc6e00bf3, 0xd5a79147, 0x06ca6351, 0x14292967]
  ++ [0x27b70a85, 0x2e1b2138, 0x4d2c6dfc, 0x53380d13, 0x650a7354, 0x766a0abb, 0x81c2c92e, 0x92722c85]
  ++ [0xa2bfe8a1, 0xa81a664b, 0xc24b8b70, 0xc76c51a3, 0xd192e819, 0xd6990624, 0xf40e3585, 0x106aa070]
  ++ [0x19a4c116, 0x1e376c08, 0x2748774c, 0x34b0bcb5, 0x391c0cb3, 0x4ed8aa4a, 0x5b9cca4f, 0x682e6ff3]
  ++ [0x748f82ee, 0x78a5636f, 0x84c87814, 0x8cc70208, 0x90befffa, 0xa4506ceb, 0xbef9a3f7, 0xc67178f2]

/-! ## Functions on words (R171) -/

/-- `Ch(x, y, z)`. -/
def shaCh (x y z : Word) : Word := (x &&& y) ^^^ (~~~x &&& z)

/-- `Maj(x, y, z)`. -/
def shaMaj (x y z : Word) : Word := (x &&& y) ^^^ (x &&& z) ^^^ (y &&& z)

/-- `BSIG0(x)`. -/
def shaBig0 (x : Word) : Word := x.rotateRight 2 ^^^ x.rotateRight 13 ^^^ x.rotateRight 22

/-- `BSIG1(x)`. -/
def shaBig1 (x : Word) : Word := x.rotateRight 6 ^^^ x.rotateRight 11 ^^^ x.rotateRight 25

/-- `SSIG0(x)`. -/
def shaSmall0 (x : Word) : Word := x.rotateRight 7 ^^^ x.rotateRight 18 ^^^ (x >>> 3)

/-- `SSIG1(x)`. -/
def shaSmall1 (x : Word) : Word := x.rotateRight 17 ^^^ x.rotateRight 19 ^^^ (x >>> 10)

/-! ## Padding and parsing (R172) -/

/-- Four bytes as a big-endian word. -/
def word32 (b₀ b₁ b₂ b₃ : Byte) : Word := b₀ ++ b₁ ++ b₂ ++ b₃

/-- A word as four bytes, most significant first. -/
def wordBytes (w : Word) : Bytes := [(w >>> 24).setWidth 8, (w >>> 16).setWidth 8, (w >>> 8).setWidth 8, w.setWidth 8]

/-- A number as a 64-bit big-endian byte string. -/
def be64 (n : Nat) : Bytes := wordBytes (BitVec.ofNat 32 (n / 2 ^ 32)) ++ wordBytes (BitVec.ofNat 32 n)

/-- The padded message: `0x80`, "the fewest zero bytes (0 to 63) that make the length congruent to 56 modulo 64", the length in bits. -/
def shaPad (m : Bytes) : Bytes := m ++ 0x80 :: List.replicate ((119 - m.length % 64) % 64) 0 ++ be64 (8 * m.length)

/-- Big-endian words of a byte string whose length is a multiple of 4. -/
def words : Bytes → List Word
  | b₀ :: b₁ :: b₂ :: b₃ :: rest => word32 b₀ b₁ b₂ b₃ :: words rest
  | _ => []

/-- A list cut into `n` blocks of `size` elements. -/
def blocks {α : Type} (size : Nat) : Nat → List α → List (List α)
  | 0, _ => []
  | n + 1, l => l.take size :: blocks size n (l.drop size)

/-! ## Compression and digest (R173) -/

/-- `W[t]` from the words before it, the newest first: `W[t-2]`, `W[t-7]`, `W[t-15]`, `W[t-16]` stand at 1, 6, 14, 15. -/
def nextW (newestFirst : List Word) : Word :=
  shaSmall1 (newestFirst.getD 1 0) + newestFirst.getD 6 0 + shaSmall0 (newestFirst.getD 14 0) + newestFirst.getD 15 0

/-- `n` further words of the message schedule, newest first. -/
def extendW : Nat → List Word → List Word
  | 0, ws => ws
  | n + 1, ws => extendW n (nextW ws :: ws)

/-- The message schedule `W[0..63]` of a block of 16 words. -/
def schedule (block : List Word) : List Word := (extendW 48 block.reverse).reverse

/-- One round with round constant `k` and schedule word `w`. -/
def shaRound (v : HashValue) (k w : Word) : HashValue :=
  let t₁ := v.h + shaBig1 v.e + shaCh v.e v.f v.g + k + w
  let t₂ := shaBig0 v.a + shaMaj v.a v.b v.c
  ⟨t₁ + t₂, v.a, v.b, v.c, v.d + t₁, v.e, v.f, v.g⟩

/-- The 64 rounds of a block, added to the hash value before it. -/
def compress (hv : HashValue) (block : List Word) : HashValue :=
  let r := (shaK.zip (schedule block)).foldl (fun v kw => shaRound v kw.1 kw.2) hv
  ⟨hv.a + r.a, hv.b + r.b, hv.c + r.c, hv.d + r.d, hv.e + r.e, hv.f + r.f, hv.g + r.g, hv.h + r.h⟩

/-- The 32 bytes of a hash value, each word big-endian. -/
def digest (v : HashValue) : Bytes :=
  wordBytes v.a ++ wordBytes v.b ++ wordBytes v.c ++ wordBytes v.d ++ wordBytes v.e ++ wordBytes v.f ++ wordBytes v.g ++ wordBytes v.h

/-- `sha256(M)` (R173). -/
def sha256 (m : Bytes) : Bytes :=
  let p := shaPad m
  digest ((blocks 16 (p.length / 64) (words p)).foldl compress shaInit)

/-! ## HMAC (R180) -/

/-- The key as exactly 64 bytes: hashed when longer than a block, then zero-filled. -/
def hmacKey (key : Bytes) : Bytes :=
  let k := if 64 < key.length then sha256 key else key
  k ++ List.replicate (64 - k.length) 0

/-- `hmac(key, msg)` (R180). -/
def hmac (key msg : Bytes) : Bytes :=
  let k := hmacKey key
  sha256 (k.map (· ^^^ 0x5C) ++ sha256 (k.map (· ^^^ 0x36) ++ msg))

end Sys2Proof.Machine
end

