-- ==== Sys2Proof/Machine/Aes.lean ====
section
/-! DEFINITION. AES-256 on one block (spec/45_aes_cbc R200 to R209; the spec's own definitions, which it marks as supplied from general
knowledge, G3) and the CBC mode, zero padding and IV rotation over it (R220 to R229). -/

namespace Sys2Proof.Machine

/-! ## Bytes as elements of GF(2^8) (R202) -/

/-- `xtime(a)`. -/
def xtime (a : Byte) : Byte := if a.msb then (a <<< 1) ^^^ 0x1B else a <<< 1

/-- `xtime` applied `k` times. -/
def xtimes : Nat → Byte → Byte
  | 0, a => a
  | k + 1, a => xtime (xtimes k a)

/-- `mul(a, b)`: "the sum over the set bits `k` of `b` of `xtime` applied `k` times to `a`". -/
def gmul (a b : Byte) : Byte := (List.range 8).foldl (fun acc k => if b.getLsbD k then acc ^^^ xtimes k a else acc) 0

/-! ## S-boxes (R203, R204) -/

/-- `SBOX`, row by row of the high nibble. -/
def sboxTable : List Byte :=
  [0x63, 0x7c, 0x77, 0x7b, 0xf2, 0x6b, 0x6f, 0xc5, 0x30, 0x01, 0x67, 0x2b, 0xfe, 0xd7, 0xab, 0x76]
  ++ [0xca, 0x82, 0xc9, 0x7d, 0xfa, 0x59, 0x47, 0xf0, 0xad, 0xd4, 0xa2, 0xaf, 0x9c, 0xa4, 0x72, 0xc0]
  ++ [0xb7, 0xfd, 0x93, 0x26, 0x36, 0x3f, 0xf7, 0xcc, 0x34, 0xa5, 0xe5, 0xf1, 0x71, 0xd8, 0x31, 0x15]
  ++ [0x04, 0xc7, 0x23, 0xc3, 0x18, 0x96, 0x05, 0x9a, 0x07, 0x12, 0x80, 0xe2, 0xeb, 0x27, 0xb2, 0x75]
  ++ [0x09, 0x83, 0x2c, 0x1a, 0x1b, 0x6e, 0x5a, 0xa0, 0x52, 0x3b, 0xd6, 0xb3, 0x29, 0xe3, 0x2f, 0x84]
  ++ [0x53, 0xd1, 0x00, 0xed, 0x20, 0xfc, 0xb1, 0x5b, 0x6a, 0xcb, 0xbe, 0x39, 0x4a, 0x4c, 0x58, 0xcf]
  ++ [0xd0, 0xef, 0xaa, 0xfb, 0x43, 0x4d, 0x33, 0x85, 0x45, 0xf9, 0x02, 0x7f, 0x50, 0x3c, 0x9f, 0xa8]
  ++ [0x51, 0xa3, 0x40, 0x8f, 0x92, 0x9d, 0x38, 0xf5, 0xbc, 0xb6, 0xda, 0x21, 0x10, 0xff, 0xf3, 0xd2]
  ++ [0xcd, 0x0c, 0x13, 0xec, 0x5f, 0x97, 0x44, 0x17, 0xc4, 0xa7, 0x7e, 0x3d, 0x64, 0x5d, 0x19, 0x73]
  ++ [0x60, 0x81, 0x4f, 0xdc, 0x22, 0x2a, 0x90, 0x88, 0x46, 0xee, 0xb8, 0x14, 0xde, 0x5e, 0x0b, 0xdb]
  ++ [0xe0, 0x32, 0x3a, 0x0a, 0x49, 0x06, 0x24, 0x5c, 0xc2, 0xd3, 0xac, 0x62, 0x91, 0x95, 0xe4, 0x79]
  ++ [0xe7, 0xc8, 0x37, 0x6d, 0x8d, 0xd5, 0x4e, 0xa9, 0x6c, 0x56, 0xf4, 0xea, 0x65, 0x7a, 0xae, 0x08]
  ++ [0xba, 0x78, 0x25, 0x2e, 0x1c, 0xa6, 0xb4, 0xc6, 0xe8, 0xdd, 0x74, 0x1f, 0x4b, 0xbd, 0x8b, 0x8a]
  ++ [0x70, 0x3e, 0xb5, 0x66, 0x48, 0x03, 0xf6, 0x0e, 0x61, 0x35, 0x57, 0xb9, 0x86, 0xc1, 0x1d, 0x9e]
  ++ [0xe1, 0xf8, 0x98, 0x11, 0x69, 0xd9, 0x8e, 0x94, 0x9b, 0x1e, 0x87, 0xe9, 0xce, 0x55, 0x28, 0xdf]
  ++ [0x8c, 0xa1, 0x89, 0x0d, 0xbf, 0xe6, 0x42, 0x68, 0x41, 0x99, 0x2d, 0x0f, 0xb0, 0x54, 0xbb, 0x16]

/-- `INV_SBOX`, row by row of the high nibble. -/
def invSboxTable : List Byte :=
  [0x52, 0x09, 0x6a, 0xd5, 0x30, 0x36, 0xa5, 0x38, 0xbf, 0x40, 0xa3, 0x9e, 0x81, 0xf3, 0xd7, 0xfb]
  ++ [0x7c, 0xe3, 0x39, 0x82, 0x9b, 0x2f, 0xff, 0x87, 0x34, 0x8e, 0x43, 0x44, 0xc4, 0xde, 0xe9, 0xcb]
  ++ [0x54, 0x7b, 0x94, 0x32, 0xa6, 0xc2, 0x23, 0x3d, 0xee, 0x4c, 0x95, 0x0b, 0x42, 0xfa, 0xc3, 0x4e]
  ++ [0x08, 0x2e, 0xa1, 0x66, 0x28, 0xd9, 0x24, 0xb2, 0x76, 0x5b, 0xa2, 0x49, 0x6d, 0x8b, 0xd1, 0x25]
  ++ [0x72, 0xf8, 0xf6, 0x64, 0x86, 0x68, 0x98, 0x16, 0xd4, 0xa4, 0x5c, 0xcc, 0x5d, 0x65, 0xb6, 0x92]
  ++ [0x6c, 0x70, 0x48, 0x50, 0xfd, 0xed, 0xb9, 0xda, 0x5e, 0x15, 0x46, 0x57, 0xa7, 0x8d, 0x9d, 0x84]
  ++ [0x90, 0xd8, 0xab, 0x00, 0x8c, 0xbc, 0xd3, 0x0a, 0xf7, 0xe4, 0x58, 0x05, 0xb8, 0xb3, 0x45, 0x06]
  ++ [0xd0, 0x2c, 0x1e, 0x8f, 0xca, 0x3f, 0x0f, 0x02, 0xc1, 0xaf, 0xbd, 0x03, 0x01, 0x13, 0x8a, 0x6b]
  ++ [0x3a, 0x91, 0x11, 0x41, 0x4f, 0x67, 0xdc, 0xea, 0x97, 0xf2, 0xcf, 0xce, 0xf0, 0xb4, 0xe6, 0x73]
  ++ [0x96, 0xac, 0x74, 0x22, 0xe7, 0xad, 0x35, 0x85, 0xe2, 0xf9, 0x37, 0xe8, 0x1c, 0x75, 0xdf, 0x6e]
  ++ [0x47, 0xf1, 0x1a, 0x71, 0x1d, 0x29, 0xc5, 0x89, 0x6f, 0xb7, 0x62, 0x0e, 0xaa, 0x18, 0xbe, 0x1b]
  ++ [0xfc, 0x56, 0x3e, 0x4b, 0xc6, 0xd2, 0x79, 0x20, 0x9a, 0xdb, 0xc0, 0xfe, 0x78, 0xcd, 0x5a, 0xf4]
  ++ [0x1f, 0xdd, 0xa8, 0x33, 0x88, 0x07, 0xc7, 0x31, 0xb1, 0x12, 0x10, 0x59, 0x27, 0x80, 0xec, 0x5f]
  ++ [0x60, 0x51, 0x7f, 0xa9, 0x19, 0xb5, 0x4a, 0x0d, 0x2d, 0xe5, 0x7a, 0x9f, 0x93, 0xc9, 0x9c, 0xef]
  ++ [0xa0, 0xe0, 0x3b, 0x4d, 0xae, 0x2a, 0xf5, 0xb0, 0xc8, 0xeb, 0xbb, 0x3c, 0x83, 0x53, 0x99, 0x61]
  ++ [0x17, 0x2b, 0x04, 0x7e, 0xba, 0x77, 0xd6, 0x26, 0xe1, 0x69, 0x14, 0x63, 0x55, 0x21, 0x0c, 0x7d]

/-- `SBOX[x]`. -/
def sbox (x : Byte) : Byte := sboxTable.getD x.toNat 0

/-- `INV_SBOX[x]`. -/
def invSbox (x : Byte) : Byte := invSboxTable.getD x.toNat 0

/-! ## State (R201) -/

/-- A column of the state, or a 4-byte word of the key schedule: rows 0 to 3. -/
structure Column where
  r0 : Byte
  r1 : Byte
  r2 : Byte
  r3 : Byte
deriving DecidableEq, Repr

/-- The 4 by 4 state, by columns: "a 16-byte block fills the state column by column". -/
structure AesState where
  c0 : Column
  c1 : Column
  c2 : Column
  c3 : Column
deriving DecidableEq, Repr

/-- Input byte `i` goes to row `i mod 4`, column `i div 4`. -/
def AesState.ofBytes (b : Bytes) : AesState :=
  let col (i : Nat) : Column := ⟨b.getD i 0, b.getD (i + 1) 0, b.getD (i + 2) 0, b.getD (i + 3) 0⟩
  ⟨col 0, col 4, col 8, col 12⟩

/-- The four bytes of a column. -/
def Column.bytes (c : Column) : Bytes := [c.r0, c.r1, c.r2, c.r3]

/-- The 16 bytes of a state, read from the same places. -/
def AesState.bytes (s : AesState) : Bytes := s.c0.bytes ++ s.c1.bytes ++ s.c2.bytes ++ s.c3.bytes

/-- A function on every byte of a column. -/
def Column.map (f : Byte → Byte) (c : Column) : Column := ⟨f c.r0, f c.r1, f c.r2, f c.r3⟩

/-- A function on every column. -/
def AesState.mapColumns (f : Column → Column) (s : AesState) : AesState := ⟨f s.c0, f s.c1, f s.c2, f s.c3⟩

/-- Bytewise exclusive or of two columns. -/
def Column.xor (a b : Column) : Column := ⟨a.r0 ^^^ b.r0, a.r1 ^^^ b.r1, a.r2 ^^^ b.r2, a.r3 ^^^ b.r3⟩

/-- Bytewise exclusive or of two 16-byte blocks. -/
def AesState.xor (s t : AesState) : AesState := ⟨s.c0.xor t.c0, s.c1.xor t.c1, s.c2.xor t.c2, s.c3.xor t.c3⟩

/-! ## Key expansion (R205) -/

/-- `RotWord`. -/
def rotWord (w : Column) : Column := ⟨w.r1, w.r2, w.r3, w.r0⟩

/-- `SubWord`. -/
def subWord (w : Column) : Column := w.map sbox

/-- `Rcon[j]` for `j >= 1`: `rc_1 = 0x01`, `rc_{j+1} = xtime(rc_j)`. -/
def rcon (j : Nat) : Column := ⟨xtimes (j - 1) 0x01, 0, 0, 0⟩

/-- `w[i]` for `i >= 8` from `w[i-1]` and `w[i-8]`. -/
def nextKeyWord (i : Nat) (prev back8 : Column) : Column :=
  back8.xor (if i % 8 = 0 then (subWord (rotWord prev)).xor (rcon (i / 8)) else if i % 8 = 4 then subWord prev else prev)

/-- `n` further words from index `i` on, newest first. -/
def extendKey : Nat → Nat → List Column → List Column
  | 0, _, ws => ws
  | n + 1, i, ws => extendKey n (i + 1) (nextKeyWord i (ws.getD 0 ⟨0, 0, 0, 0⟩) (ws.getD 7 ⟨0, 0, 0, 0⟩) :: ws)

/-- The words `w[0..7]` of a 32-byte key. -/
def keyWords (key : Bytes) : List Column :=
  (List.range 8).map fun i => ⟨key.getD (4 * i) 0, key.getD (4 * i + 1) 0, key.getD (4 * i + 2) 0, key.getD (4 * i + 3) 0⟩

/-- `key_expand(key)`: `w[0..59]`. -/
def keyExpand (key : Bytes) : List Column := (extendKey 52 8 (keyWords key).reverse).reverse

/-- The round key of round `r`: the words `w[4r .. 4r+3]`, word `w[4r+c]` as column `c`. -/
def roundKey (w : List Column) (r : Nat) : AesState :=
  ⟨w.getD (4 * r) ⟨0, 0, 0, 0⟩, w.getD (4 * r + 1) ⟨0, 0, 0, 0⟩, w.getD (4 * r + 2) ⟨0, 0, 0, 0⟩, w.getD (4 * r + 3) ⟨0, 0, 0, 0⟩⟩

/-! ## Round functions (R206, R208) -/

/-- `SubBytes`. -/
def subBytes (s : AesState) : AesState := s.mapColumns (Column.map sbox)

/-- `InvSubBytes`. -/
def invSubBytes (s : AesState) : AesState := s.mapColumns (Column.map invSbox)

/-- `ShiftRows`: `s'[r][c] = s[r][(c + r) mod 4]`. -/
def shiftRows (s : AesState) : AesState :=
  ⟨⟨s.c0.r0, s.c1.r1, s.c2.r2, s.c3.r3⟩, ⟨s.c1.r0, s.c2.r1, s.c3.r2, s.c0.r3⟩,
   ⟨s.c2.r0, s.c3.r1, s.c0.r2, s.c1.r3⟩, ⟨s.c3.r0, s.c0.r1, s.c1.r2, s.c2.r3⟩⟩

/-- `InvShiftRows`: `s'[r][(c + r) mod 4] = s[r][c]`. -/
def invShiftRows (s : AesState) : AesState :=
  ⟨⟨s.c0.r0, s.c3.r1, s.c2.r2, s.c1.r3⟩, ⟨s.c1.r0, s.c0.r1, s.c3.r2, s.c2.r3⟩,
   ⟨s.c2.r0, s.c1.r1, s.c0.r2, s.c3.r3⟩, ⟨s.c3.r0, s.c2.r1, s.c1.r2, s.c0.r3⟩⟩

/-- One output row of a column mix with coefficients `k0` to `k3`. -/
def mixRow (k0 k1 k2 k3 : Byte) (c : Column) : Byte := gmul c.r0 k0 ^^^ gmul c.r1 k1 ^^^ gmul c.r2 k2 ^^^ gmul c.r3 k3

/-- `MixColumns` on one column. -/
def mixColumn (c : Column) : Column := ⟨mixRow 2 3 1 1 c, mixRow 1 2 3 1 c, mixRow 1 1 2 3 c, mixRow 3 1 1 2 c⟩

/-- `InvMixColumns` on one column. -/
def invMixColumn (c : Column) : Column :=
  ⟨mixRow 0x0e 0x0b 0x0d 0x09 c, mixRow 0x09 0x0e 0x0b 0x0d c, mixRow 0x0d 0x09 0x0e 0x0b c, mixRow 0x0b 0x0d 0x09 0x0e c⟩

/-! ## One block (R207, R209) -/

/-- A middle round of encryption: `SubBytes; ShiftRows; MixColumns; AddRoundKey(r)`. -/
def encRound (w : List Column) (s : AesState) (r : Nat) : AesState :=
  ((shiftRows (subBytes s)).mapColumns mixColumn).xor (roundKey w r)

/-- A middle round of decryption: `InvShiftRows; InvSubBytes; AddRoundKey(r); InvMixColumns`. -/
def decRound (w : List Column) (s : AesState) (r : Nat) : AesState :=
  ((invSubBytes (invShiftRows s)).xor (roundKey w r)).mapColumns invMixColumn

/-- The rounds 1 to 13. -/
def middleRounds : List Nat := [1, 2, 3, 4, 5, 6, 7, 8, 9, 10, 11, 12, 13]

/-- `aes_enc` under an expanded key (R207). -/
def encryptBlock (w : List Column) (x : AesState) : AesState :=
  (shiftRows (subBytes (middleRounds.foldl (encRound w) (x.xor (roundKey w 0))))).xor (roundKey w 14)

/-- `aes_dec` under an expanded key (R209). -/
def decryptBlock (w : List Column) (y : AesState) : AesState :=
  (invSubBytes (invShiftRows (middleRounds.reverse.foldl (decRound w) (y.xor (roundKey w 14))))).xor (roundKey w 0)

/-- `aes_enc(key, X)` (R207). -/
def aesEnc (key x : Bytes) : Bytes := (encryptBlock (keyExpand key) (.ofBytes x)).bytes

/-- `aes_dec(key, Y)` (R209). -/
def aesDec (key y : Bytes) : Bytes := (decryptBlock (keyExpand key) (.ofBytes y)).bytes

/-! ## CBC, padding, IV rotation (R220 to R229) -/

/-- The 16-byte blocks of a text whose length is a multiple of 16. -/
def textBlocks (p : Bytes) : List AesState := (blocks 16 (p.length / 16) p).map .ofBytes

/-- CBC encryption of blocks after `prev` (R220). -/
def cbcEncBlocks (w : List Column) : AesState → List AesState → List AesState
  | _, [] => []
  | prev, p :: ps => encryptBlock w (p.xor prev) :: cbcEncBlocks w (encryptBlock w (p.xor prev)) ps

/-- CBC decryption of blocks after `prev` (R228). -/
def cbcDecBlocks (w : List Column) : AesState → List AesState → List AesState
  | _, [] => []
  | prev, c :: cs => (decryptBlock w c).xor prev :: cbcDecBlocks w c cs

/-- `cbc_encrypt(K, V, P)` (R220). -/
def cbcEncrypt (k v p : Bytes) : Bytes := (cbcEncBlocks (keyExpand k) (.ofBytes v) (textBlocks p)).flatMap AesState.bytes

/-- `cbc_decrypt(K, V, C)` (R228). -/
def cbcDecrypt (k v c : Bytes) : Bytes := (cbcDecBlocks (keyExpand k) (.ofBytes v) (textBlocks c)).flatMap AesState.bytes

/-- `zero_pad(P)`: zero bytes to a 16-byte boundary, none at a boundary (R222). -/
def zeroPad (p : Bytes) : Bytes := p ++ List.replicate ((16 - p.length % 16) % 16) 0

/-- `zero_unpad(Q)`: everything before the first zero byte (R226). -/
def zeroUnpad (q : Bytes) : Bytes := q.takeWhile (· != 0)

/-- `next_iv(C)`: the last 16 bytes of the raw ciphertext (R221). -/
def nextIv (c : Bytes) : Bytes := c.drop (c.length - 16)

/-- `msg_encrypt(K, V, P) -> (C, V')` (R229). -/
def msgEncrypt (k v p : Bytes) : Bytes × Bytes := (cbcEncrypt k v (zeroPad p), nextIv (cbcEncrypt k v (zeroPad p)))

/-- `msg_decrypt(K, V, C) -> (P, V')` (R229). -/
def msgDecrypt (k v c : Bytes) : Bytes × Bytes := (zeroUnpad (cbcDecrypt k v c), nextIv c)

end Sys2Proof.Machine
end

