-- ==== Sys2Proof/Machine/Flags.lean ====
section
/-! DEFINITION. The condition flags `FLAGS` (spec/10_state R19): every flag computation of the spec. Every command writes all eight
bits; "a flag a command does not define reads 0 after that command". -/

namespace Sys2Proof.Machine

/-- The bit number of a flag (R19); bits 6 and 7 are reserved and read 0. -/
def Flag.bit : Flag → Nat
  | .crcOk => 0
  | .lenOk => 1
  | .lenOvf => 2
  | .tsValid => 3
  | .profileValid => 4
  | .found => 5

/-- `FLAGS` with one flag at the given value and all others 0. -/
def flagByte (f : Flag) (b : Bool) : Byte := if b then BitVec.ofNat 8 (2 ^ f.bit) else 0

/-- The value of a flag in `FLAGS`. -/
def flagSet (flags : Byte) (f : Flag) : Bool := flags.getLsbD f.bit

/-- The flags of a command that defines none. -/
def noFlags : Byte := 0

/-- Flags of a decoded monitor frame: `CRC_OK` and `LEN_OK` are 1, `TS_VALID` as given (R134). -/
def monitorFlags (tsValid : Bool) : Byte := flagByte .crcOk true ||| flagByte .lenOk true ||| flagByte .tsValid tsValid

/-- Flags of a decoded recipe frame (R141). -/
def recipeFlags (crcOk lenOk profileValid : Bool) : Byte :=
  flagByte .crcOk crcOk ||| flagByte .lenOk lenOk ||| flagByte .profileValid profileValid

/-- Flags of a decodable property frame (R146). -/
def propertyFlags (crcOk lenOk : Bool) : Byte := flagByte .crcOk crcOk ||| flagByte .lenOk lenOk

/-- Flags of `BREW` (R163). -/
def brewFlags (lenOvf : Bool) : Byte := flagByte .lenOvf lenOvf

/-- Flags of `TLV_NAME` (R117). -/
def nameFlags (found : Bool) : Byte := flagByte .found found

end Sys2Proof.Machine
end

