-- ==== Sys2Proof/Machine/Operands.lean ====
section
/-! DEFINITION. The operand forms (spec/30_encoding R63, R64). A `u8` is a byte and a `pmap` a mapping, which need no check; a `bytes`
operand is checked against `MAX_OPERAND` before the command's own tests (spec/60_exceptions R274). -/

namespace Sys2Proof.Machine

/-- Some `bytes` operand is longer than `MAX_OPERAND` (R64). -/
def operandTooLong (operands : List Bytes) : Bool := operands.any fun b => decide (Config.maxOperand < b.length)

/-- A result would exceed `OBUF_SIZE` (R270, status `OPERAND`). -/
def resultTooLong (out : Bytes) : Bool := decide (Config.obufSize < out.length)

end Sys2Proof.Machine
end

