-- ==== Sys2Proof/Machine/Ops.lean ====
section
/-! DEFINITION. The named operations over the state: ending a command with success, raising a status (the block's exceptions,
spec/60_exceptions R271), reading and clearing the session registers, the derived registers, and taking an offer from the port. -/

namespace Sys2Proof.Machine

/-! ## Codes and derived registers -/

/-- The code of a status in `STATUS` (R270). -/
def Status.code : Status → Byte
  | .ok => 0x00
  | .badCmd => 0x01
  | .operand => 0x02
  | .parseShort => 0x10
  | .parseLength => 0x11
  | .parseCrc => 0x12
  | .parseContents => 0x13
  | .needsRekey => 0x20
  | .authFail => 0x21
  | .noLanKey => 0x22
  | .badB64 => 0x30
  | .badHex => 0x31

/-- The 2-bit encoding of `SESS` (R14). -/
def Sess.code : Sess → Byte
  | .uninit => 0
  | .derived => 1
  | .active => 2
  | .expired => 3

/-- `SESS` is `DERIVED` or `ACTIVE`: the secrets are valid (R16, R20 `KEYS_VALID`). -/
def Sess.live : Sess → Bool
  | .uninit => false
  | .derived => true
  | .active => true
  | .expired => false

/-- `SSTAT`: bits 1 to 0 `SESS`, bit 6 `KEYS_VALID`, bit 7 `LANKEY_VALID`, bits 5 to 2 read 0 (R20). -/
def sstat (s : State) : Byte :=
  s.sess.code ||| (if s.sess.live then 0x40 else 0) ||| (if s.lanKey.isSome then 0x80 else 0)

/-- `OLEN`, the length of `OBUF` (R17). -/
def olen (s : State) : Nat := s.obuf.length

/-! ## Ending a command -/

/-- A successful end: `STATUS <- 0x00` and the three results (R18, R19, R21); every other register as the command left it. -/
def complete (flags : Byte) (out : Bytes) (r : Res) (s : State) : State :=
  { s with status := Status.ok.code, flags := flags, obuf := out, res := r }

/-- `raise <Status>`: "`STATUS <- code`; `FLAGS <- 0x00`; `OBUF <- empty`, `OLEN <- 0`; `RES <- none`", except that a monitor parse
status leaves its raw length in `RES`; "**Nothing else changes**" (R271). There is no handler and "the return is nothing": the next
command starts from this state. -/
def raiseWith (st : Status) (r : Res) (s : State) : State :=
  { s with status := st.code, flags := noFlags, obuf := [], res := r }

/-- `raise <Status>` with `RES <- none` (R271). -/
def raise (st : Status) (s : State) : State := raiseWith st .none s

/-- The outcome of a command that raises a status. -/
def raised (st : Status) (s : State) : Outcome := .next (raise st s)

/-- The outcome of a command whose result is a byte string alone, flags all 0, `RES <- none` (R21). -/
def delivered (out : Bytes) (s : State) : Outcome := .next (complete noFlags out .none s)

/-- A command with `bytes` operands: `OPERAND` comes before the command's own tests (R64, R274). -/
def withOperands (operands : List Bytes) (s : State) (body : Outcome) : Outcome :=
  if operandTooLong operands then raised .operand s else body

/-! ## Session registers -/

/-- The five secrets `<- none` (R16). -/
def clearSecrets (s : State) : State :=
  { s with kSign := none, kApp := none, ivApp := none, kDev := none, ivDev := none }

/-- "if SESS = DERIVED or SESS = ACTIVE: SESS <- EXPIRED", secrets `<- none`; other session states stay (R188, R190). -/
def invalidate (s : State) : State := if s.sess.live then clearSecrets { s with sess := .expired } else s

/-- Read a register that may hold no value: "reading it is a model fault" (spec/00_scope, Notation). -/
def readSecret (reg : SecretReg) (v : Option Bytes) (k : Bytes → Outcome) : Outcome :=
  match v with
  | some b => k b
  | none => .fault (.readOfNone reg)

/-- A session command: "if SESS != DERIVED and SESS != ACTIVE: raise NEEDS_REKEY" (R223, R225, R227). -/
def withLiveSession (s : State) (body : Outcome) : Outcome :=
  if s.sess.live then body else raised .needsRekey s

/-! ## Reset and the command port -/

/-- Every element of state at its reset value (R300, R301); commands held at the port stay held (R49; notes/assumptions/2.md). -/
def resetState (s : State) : State := { State.reset with port := s.port }

/-- The oldest offer and the state in which its command starts (R49, R50); none when nothing is offered. -/
def fetch (s : State) : Option (Offer × State) :=
  match s.port with
  | [] => none
  | o :: rest => some (o, { s with port := rest })

/-- An invalid descriptor makes the command `raise BADCMD` (R64, R65). -/
def badCommand (s : State) : State := raise .badCmd s

/-! ## Reading `OBUF` as memory -/

/-- `MemRead(OBUF, i, 1)`: byte `i`, no value at or beyond `OLEN` (R40, R41). -/
def Memory.read (m : Bytes) (i : Nat) : Option Byte := m[i]?

/-- The buffer keeps the form of R17, `OLEN <= OBUF_SIZE`; a byte string has no other form, and an index beyond it has no value. -/
def Memory.wf (m : Bytes) : Bool := decide (m.length ≤ Config.obufSize)

/-- The buffer as (address, byte) pairs, addresses rising from 0. -/
def Memory.cells (m : Bytes) : List Host.Cell := m.zipIdx.map fun e => (e.2, e.1)

end Sys2Proof.Machine
end

