-- ==== Sys2Proof/Machine/CipherCommands.lean ====
section
/-! DEFINITION. The session commands `ENC`, `DEC`, `SIGN` (spec/45_aes_cbc R223, R225, R227). -/

namespace Sys2Proof.Machine

/-- `ENC plaintext` (R223): `NEEDS_REKEY`, then `OPERAND` for an empty plaintext; else the ciphertext in `OBUF`, `IV_APP` rotated,
`SESS <- ACTIVE`. The plaintext is not checked for zero bytes. -/
def execEnc (plaintext : Bytes) (s : State) : Outcome :=
  withOperands [plaintext] s <| withLiveSession s <|
    if plaintext = [] then raised .operand s
    else
      readSecret .kApp s.kApp fun k => readSecret .ivApp s.ivApp fun v =>
        delivered (msgEncrypt k v plaintext).1 { s with ivApp := some (msgEncrypt k v plaintext).2, sess := .active }

/-- `DEC ciphertext` (R225): `NEEDS_REKEY`, then `AUTH_FAIL` for a length that is no positive multiple of 16 (R224); else the plaintext
in `OBUF`, `IV_DEV` rotated "whatever the plaintext looks like", `SESS <- ACTIVE`. -/
def execDec (ciphertext : Bytes) (s : State) : Outcome :=
  withOperands [ciphertext] s <| withLiveSession s <|
    if ciphertext.length = 0 ∨ ciphertext.length % 16 ≠ 0 then raised .authFail s
    else
      readSecret .kDev s.kDev fun k => readSecret .ivDev s.ivDev fun v =>
        delivered (msgDecrypt k v ciphertext).1 { s with ivDev := some (msgDecrypt k v ciphertext).2, sess := .active }

/-- `SIGN plaintext` (R227): `NEEDS_REKEY`, else the 32-byte HMAC in `OBUF`; "`SESS` and both IV chains are unchanged". -/
def execSign (plaintext : Bytes) (s : State) : Outcome :=
  withOperands [plaintext] s <| withLiveSession s <|
    readSecret .kSign s.kSign fun k => delivered (hmac k plaintext) s

end Sys2Proof.Machine
end

