-- ==== Sys2Proof/Machine/Control.lean ====
section
/-! DEFINITION. The control commands `NOP` (spec/60_exceptions R280) and `RESET` (spec/70_reset_and_hazards R301). -/

namespace Sys2Proof.Machine

/-- `NOP`: clears the results of the previous command and nothing else (R280). -/
def execNop (s : State) : Outcome := .next (complete noFlags [] .none s)

/-- `RESET`: every element of state at its value of R300, the LAN key and `CRC` too (R301). -/
def execReset (s : State) : Outcome := .next (resetState s)

end Sys2Proof.Machine
end

