-- ==== Sys2Proof/Machine/Crc.lean ====
section
/-! DEFINITION. The CRC-16 generator as pure functions (spec/40_crc16 R100, R101, R108). -/

namespace Sys2Proof.Machine

/-- One shift: "shift left by one, and if the bit shifted out was set, XOR the register with the polynomial" (R100). -/
def crcShift (reg : Half) : Half := if reg.msb then (reg <<< 1) ^^^ 0x1021 else reg <<< 1

/-- `n` shifts. -/
def crcShifts : Nat → Half → Half
  | 0, reg => reg
  | n + 1, reg => crcShifts n (crcShift reg)

/-- `crc_step(reg, b)`: the byte into the high byte of the register, then 8 shifts (R100). -/
def crcStep (reg : Half) (b : Byte) : Half := crcShifts 8 (reg ^^^ (b.setWidth 16 <<< 8))

/-- `crc_update(reg, B)` (R101). -/
def crcUpdate (reg : Half) (b : Bytes) : Half := b.foldl crcStep reg

/-- `CRC_INIT` of R8: the initial register value. -/
def crcInitValue : Half := 0x1D0F

/-- `crc_reg(B)` (R101). -/
def crcReg (b : Bytes) : Half := crcUpdate crcInitValue b

/-- A 16-bit value as two bytes, high byte first (R43). -/
def halfBytes (v : Half) : Bytes := [hi8 v, lo8 v]

/-- `crc16(B)`: two bytes, high byte first (R101). -/
def crc16 (b : Bytes) : Bytes := halfBytes (crcReg b)

/-- `crc_ok(F, E)`: the two bytes before `E` are the checksum of all before them (R108). -/
def crcOk (f : Bytes) (e : Nat) : Bool := crc16 (f.take (e - 2)) == (f.take e).drop (e - 2)

end Sys2Proof.Machine
end

