-- ==== Sys2Proof/Machine/CrcCommands.lean ====
section
/-! DEFINITION. The CRC commands (spec/40_crc16 R103 to R105), the only ones that write the `CRC` register besides `RESET` (R13). -/

namespace Sys2Proof.Machine

/-- `CRC <- r`, `OBUF <- [hi8(r), lo8(r)]`, `RES.crc <- r`, flags all 0. -/
def completeCrc (r : Half) (s : State) : State := complete noFlags (halfBytes r) (.crc r) { s with crc := r }

/-- `CRC16 data`: "the previous value of `CRC` is ignored and overwritten" (R103). -/
def execCrc16 (data : Bytes) (s : State) : Outcome := withOperands [data] s (.next (completeCrc (crcReg data) s))

/-- `CRC_INIT` (R104). -/
def execCrcInit (s : State) : Outcome := .next (completeCrc crcInitValue s)

/-- `CRC_UPD data`: "continues from whatever `CRC` holds" (R105). -/
def execCrcUpd (data : Bytes) (s : State) : Outcome := withOperands [data] s (.next (completeCrc (crcUpdate s.crc data) s))

end Sys2Proof.Machine
end

