-- ==== Sys2Proof/Machine/Tlv.lean ====
section
/-! DEFINITION. The TLV parameter codec as pure functions of the tag tables (spec/41_tlv R111, R113, R116, R118, R119). -/

namespace Sys2Proof.Machine

/-! ## Decode -/

/-- The loop of `tlv_decode` from mapping `m` on (R118): "a truncated trailing entry is silently dropped", "a later occurrence of the
same tag overwrites an earlier one". -/
def tlvDecodeFrom (c : TlvTables) : Bytes → ParamMap → ParamMap
  | t :: v :: rest, m =>
    if c.width t = 2 then
      match rest with
      | lo :: rest' => tlvDecodeFrom c rest' (m.set t (be16 v lo))
      | [] => m
    else tlvDecodeFrom c rest (m.set t (v.setWidth 16))
  | _, m => m

/-- `tlv_decode(B)` (R118). -/
def tlvDecode (c : TlvTables) (b : Bytes) : ParamMap := tlvDecodeFrom c b []

/-! ## Encode -/

/-- `t` is in `dom(m)`. -/
def hasTag (m : ParamMap) (t : Byte) : Bool := (m.get? t).isSome

/-- A list with every repeat dropped: the first occurrence of each tag keeps its place. -/
def firstOccurrences : List Byte → List Byte
  | [] => []
  | t :: ts => t :: (firstOccurrences ts).filter (· ≠ t)

/-- `TLV_PRIORITY`, "a list of distinct tags" (R8, R119, R310). DESIGN CHOICE for a table that is not distinct, which R8 does not allow:
the FIRST occurrence of a repeated tag keeps its place and later ones are dropped (notes/assumptions/5.md). -/
def priorityTags (c : TlvTables) : List Byte := firstOccurrences c.priority

/-- The tags 0 to 255, ascending. -/
def allTags : List Byte := (List.range 256).map (BitVec.ofNat 8)

/-- `tlv_order(m)`: the priority tags of `m` in list order, then its other tags ascending (R119). -/
def tlvOrder (c : TlvTables) (m : ParamMap) : List Byte :=
  (priorityTags c).filter (hasTag m) ++ allTags.filter fun t => hasTag m t && !(priorityTags c).contains t

/-- The entry of tag `t` with value `v`: "2 big-endian bytes if in the two-byte-tag set, else 1 byte masked to 8 bits" (R113). -/
def tlvEntry (c : TlvTables) (t : Byte) (v : Half) : Bytes :=
  if c.width t = 2 then [t, hi8 v, lo8 v] else [t, lo8 v]

/-- `tlv_encode(m)` (R113). -/
def tlvEncode (c : TlvTables) (m : ParamMap) : Bytes :=
  (tlvOrder c m).flatMap fun t => tlvEntry c t ((m.get? t).getD 0)

/-- A mapping fits when every value fits its tag: at most 255 for a one-byte tag (R110). -/
def fitsTags (c : TlvTables) (m : ParamMap) : Bool := m.all fun e => c.width e.1 == 2 || decide (e.2 < 256)

/-! ## Name translation -/

/-- A lower-case hex digit, `0123456789abcdef`, of the low 4 bits (R116, R246). -/
def hexDigit (v : Byte) : Byte := if v &&& 0x0F < 10 then 0x30 + (v &&& 0x0F) else 0x57 + (v &&& 0x0F)

/-- The two hex digits of a byte, high nibble first (R75). -/
def hexByte (b : Byte) : Bytes := [hexDigit (b >>> 4), hexDigit b]

/-- `0x` and two lower-case hex digits: how a tag without a name renders (R116). -/
def fallbackName (t : Byte) : Name := [0x30, 0x78] ++ hexByte t

/-- A character `0`-`9`, `a`-`f` or `A`-`F`. -/
def isHexDigit (c : Byte) : Bool :=
  (0x30 ≤ c && c ≤ 0x39) || (0x61 ≤ c && c ≤ 0x66) || (0x41 ≤ c && c ≤ 0x46)

/-- "`0x` followed by two hex digits", the form no entry of `TLV_NAMES` may have (R116, D35). -/
def isFallbackForm : Name → Bool
  | [z, x, a, b] => z == 0x30 && x == 0x78 && isHexDigit a && isHexDigit b
  | _ => false

/-- The entry of the table for a tag, as configured. -/
def tableEntry (c : TlvTables) (t : Byte) : Option Name := c.names.lookup t

/-- A name a table may hold: ASCII, not of the fallback form (R116, D35), and short enough for `OBUF` (R17; notes/assumptions/6.md). -/
def nameAdmissible (n : Name) : Bool :=
  n.all (fun b => decide (b < 128)) && !isFallbackForm n && decide (n.length ≤ Config.obufSize)

/-- `TLV_NAMES[t]`, of an injective table (D35): an entry that repeats the name of a lower tag, or is not admissible, is no entry
(notes/assumptions/6.md). -/
def namedTag (c : TlvTables) (t : Byte) : Option Name :=
  match tableEntry c t with
  | none => none
  | some n =>
    if nameAdmissible n && !(allTags.any fun u => decide (u < t) && (tableEntry c u == some n)) then some n else none

/-- `tlv_name(t)` (R116). -/
def tagName (c : TlvTables) (t : Byte) : Name := (namedTag c t).getD (fallbackName t)

/-- The named-parameter view of a mapping: `tlv_name(t) -> m[t]` (R116), in tag order (notes/assumptions/16.md). -/
def namedView (c : TlvTables) (m : ParamMap) : List (Name × Half) := m.map fun e => (tagName c e.1, e.2)

end Sys2Proof.Machine
end

