-- ==== Sys2Proof/Machine/Text.lean ====
section
/-! DEFINITION. The text forms as pure functions: hex (spec/45_aes_cbc R245, R246) and base64 (R241 to R243). -/

namespace Sys2Proof.Machine

/-! ## Hex -/

/-- `hex_encode(B)`: lower-case digits, two per byte, high nibble first (R246). -/
def hexEncode (b : Bytes) : Bytes := b.flatMap hexByte

/-- The value of a hex digit of either case, none for any other character (R245). -/
def hexVal (c : Byte) : Option Byte :=
  if 0x30 ≤ c ∧ c ≤ 0x39 then some (c - 0x30)
  else if 0x61 ≤ c ∧ c ≤ 0x66 then some (c - 0x57)
  else if 0x41 ≤ c ∧ c ≤ 0x46 then some (c - 0x37)
  else none

/-- `hex_decode(T)`, none when `T` is malformed (R245). -/
def hexDecode : Bytes → Option Bytes
  | [] => some []
  | [_] => none
  | a :: b :: rest =>
    match hexVal a, hexVal b, hexDecode rest with
    | some hi, some lo, some out => some (((hi <<< 4) ||| lo) :: out)
    | _, _, _ => none

/-! ## Base64 -/

/-- The alphabet: value 0 to 63 to its character (R241). -/
def b64Char (v : Byte) : Byte :=
  if v < 26 then 0x41 + v
  else if v < 52 then 0x61 + (v - 26)
  else if v < 62 then 0x30 + (v - 52)
  else if v = 62 then 0x2B
  else 0x2F

/-- The value of a character of the alphabet, none for any other (R241, R243). -/
def b64Val (c : Byte) : Option Byte :=
  if 0x41 ≤ c ∧ c ≤ 0x5A then some (c - 0x41)
  else if 0x61 ≤ c ∧ c ≤ 0x7A then some (c - 0x61 + 26)
  else if 0x30 ≤ c ∧ c ≤ 0x39 then some (c - 0x30 + 52)
  else if c = 0x2B then some 62
  else if c = 0x2F then some 63
  else none

/-- The pad character `=` (R241). -/
def b64Pad : Byte := 0x3D

/-- `b64_encode(B)` (R242). -/
def b64Encode : Bytes → Bytes
  | x :: y :: z :: rest =>
    b64Char (x >>> 2) :: b64Char (((x &&& 3) <<< 4) ||| (y >>> 4)) :: b64Char (((y &&& 15) <<< 2) ||| (z >>> 6)) :: b64Char (z &&& 63)
      :: b64Encode rest
  | [x, y] => [b64Char (x >>> 2), b64Char (((x &&& 3) <<< 4) ||| (y >>> 4)), b64Char ((y &&& 15) <<< 2), b64Pad]
  | [x] => [b64Char (x >>> 2), b64Char ((x &&& 3) <<< 4), b64Pad, b64Pad]
  | [] => []

/-- A group of four characters without padding (R243). -/
def b64Full (p q r s : Byte) : Option Bytes :=
  match b64Val p, b64Val q, b64Val r, b64Val s with
  | some p, some q, some r, some s => some [(p <<< 2) ||| (q >>> 4), ((q &&& 15) <<< 4) ||| (r >>> 2), ((r &&& 3) <<< 6) ||| s]
  | _, _, _, _ => none

/-- The last group: full, `p q r =` or `p q = =`; "the unused low bits of `r` or `q` are ignored" (R243). -/
def b64Last (p q r s : Byte) : Option Bytes :=
  if s = b64Pad then
    if r = b64Pad then
      match b64Val p, b64Val q with
      | some p, some q => some [(p <<< 2) ||| (q >>> 4)]
      | _, _ => none
    else
      match b64Val p, b64Val q, b64Val r with
      | some p, some q, some r => some [(p <<< 2) ||| (q >>> 4), ((q &&& 15) <<< 4) ||| (r >>> 2)]
      | _, _, _ => none
  else b64Full p q r s

/-- `b64_decode(T)`, strict, none when `T` is malformed (R243). -/
def b64Decode : Bytes → Option Bytes
  | [] => some []
  | [p, q, r, s] => b64Last p q r s
  | p :: q :: r :: s :: rest =>
    match b64Full p q r s, b64Decode rest with
    | some head, some out => some (head ++ out)
    | _, _ => none
  | _ => none

end Sys2Proof.Machine
end

