-- ==== Sys2Proof/Machine/Frame.lean ====
section
/-! DEFINITION. The frame decoders and the frame builder (spec/42_frame_decode R131 to R148, spec/43_frame_build R160 to R162), as functions
of the frame bytes: what they deliver, and with which flags. -/

namespace Sys2Proof.Machine

/-- Byte `i` of a frame. Every use stands behind a check that `i` lies within the frame. -/
def byteAt (f : Bytes) (i : Nat) : Byte := f.getD i 0

/-- `F[a..b)`. -/
def slice (f : Bytes) (a b : Nat) : Bytes := (f.take b).drop a

/-- A length as a 16-bit `rawlen` (R136). -/
def rawLength (f : Bytes) : Half := BitVec.ofNat 16 f.length

/-! ## Monitor frames, strict (R131 to R138) -/

/-- `mon_check(F)`: the first of the four tests that fails, in the order of R132; none when all pass. -/
def monitorCheck (f : Bytes) : Option Status :=
  let len := (byteAt f 1).toNat
  if f.length < 4 then some .parseShort
  else if len < 3 ∨ f.length < len + 1 then some .parseLength
  else if crc16 (f.take (len - 1)) ≠ slice f (len - 1) (len + 1) then some .parseCrc
  else if len ≠ 18 then some .parseContents
  else none

/-- The trailing region `Z = F[L+1..n)` (R131, R138), for `L = 18`. -/
def monitorTrailing (f : Bytes) : Bytes := f.drop 19

/-- The timestamp: the first four trailing bytes, when there are four (R138). -/
def monitorTimestamp (f : Bytes) : Option (Vector Byte 4) :=
  match monitorTrailing f with
  | z₀ :: z₁ :: z₂ :: z₃ :: _ => some #v[z₀, z₁, z₂, z₃]
  | _ => none

/-- `extra`: the trailing bytes after the timestamp, or all of them when there is none (R138). -/
def monitorExtra (f : Bytes) : Bytes :=
  if (monitorTimestamp f).isSome then (monitorTrailing f).drop 4 else monitorTrailing f

/-- The monitor record (R136): the contents bytes `c[k] = F[4 + k]` at the places of R68 (C5, D12). -/
def monitorRecord (f : Bytes) : MonitorRecord where
  direction      := byteAt f 0
  length         := byteAt f 1
  requestId      := byteAt f 2
  answerRequired := byteAt f 3
  accessory      := byteAt f 4
  switches       := #v[byteAt f 5, byteAt f 6]
  alarms         := #v[byteAt f 7, byteAt f 8, byteAt f 12, byteAt f 13]
  status         := byteAt f 9
  action         := byteAt f 10
  progress       := byteAt f 11
  rsv            := #v[byteAt f 14, byteAt f 15, byteAt f 16]
  crc            := be16 (byteAt f 17) (byteAt f 18)
  timestamp      := monitorTimestamp f
  rawlen         := rawLength f

/-- `MON_DEC` on the frame bytes (R137): "either delivers a whole record or raises a parse status" (R130), which leaves `rawlen` (R133). -/
def decodeMonitor (f : Bytes) (s : State) : State :=
  match monitorCheck f with
  | some st => raiseWith st (.rawlen (rawLength f)) s
  | none => complete (monitorFlags (monitorTimestamp f).isSome) (monitorExtra f) (.monitor (monitorRecord f)) s

/-! ## Recipe frames, lenient (R140 to R144) -/

/-- The command word `be16(F[2], F[3])` (R72). -/
def commandWord (f : Bytes) : Half := be16 (byteAt f 2) (byteAt f 3)

/-- `LEN_OK`: the declared length agrees with the frame, `F[1] = n - 1` (R140). -/
def lenOk (f : Bytes) : Bool := (byteAt f 1).toNat == f.length - 1

/-- `rcp_format(F)` (R144). -/
def recipeFormat (f : Bytes) : RecipeFormat :=
  if f.length < 4 ∨ byteAt f 0 ≠ 0xD0 then .unknown
  else if commandWord f = 0xA6F0 then (if f.length < 8 then .unknown else .profile)
  else if commandWord f = 0xB0F0 then (if f.length < 7 then .unknown else .default)
  else .unknown

/-- The recipe record of a frame of the given format (R142). -/
def recipeRecord (c : TlvTables) (f : Bytes) : RecipeFormat → RecipeRecord
  | .unknown => { format := .unknown, cmd := none, declaredLen := none, profile := none, bevId := none, params := none }
  | .profile =>
    { format := .profile, cmd := some 0xA6F0, declaredLen := some (byteAt f 1), profile := some (byteAt f 4),
      bevId := some (byteAt f 5), params := some (tlvDecode c (slice f 6 (f.length - 2))) }
  | .default =>
    { format := .default, cmd := some 0xB0F0, declaredLen := some (byteAt f 1), profile := none,
      bevId := some (byteAt f 4), params := some (tlvDecode c (slice f 5 (f.length - 2))) }

/-- `RCP_DEC` on the frame bytes (R141 to R143): always `STATUS = 0x00`; an unknown frame leaves its raw hex in `OBUF`. -/
def decodeRecipe (c : TlvTables) (f : Bytes) (s : State) : State :=
  match recipeFormat f with
  | .unknown => complete noFlags (hexEncode f) (.recipe (recipeRecord c f .unknown)) s
  | .profile => complete (recipeFlags (crcOk f f.length) (lenOk f) true) [] (.recipe (recipeRecord c f .profile)) s
  | .default => complete (recipeFlags (crcOk f f.length) (lenOk f) false) [] (.recipe (recipeRecord c f .default)) s

/-! ## Property frames, lenient (R145 to R148) -/

/-- `PROP_DEC` on the frame bytes (R148): decodable when `n >= 6` and `F[0] = 0xD0`; always `STATUS = 0x00`. -/
def decodeProperty (f : Bytes) (s : State) : State :=
  if 6 ≤ f.length ∧ byteAt f 0 = 0xD0 then
    complete (propertyFlags (crcOk f f.length) (lenOk f)) (slice f 4 (f.length - 2))
      (.property { kind := .frame, opcode := some (commandWord f), declaredLen := some (byteAt f 1) }) s
  else complete noFlags [] (.property { kind := .none, opcode := none, declaredLen := none }) s

/-! ## The command frame builder (R160 to R162) -/

/-- The length value of a brew frame with TLV bytes `tlv`: `T + 7`, "all bytes but the marker" (R161, R162, C1). -/
def brewLength (tlv : Bytes) : Nat := tlv.length + 7

/-- `build_brew(bev_id, trigger, params)` from the encoded TLV bytes: the frame, its length byte `lo8(T + 7)`, its CRC (R161). -/
def brewFrame (bevId trigger : Byte) (tlv : Bytes) : Bytes :=
  let pre := [0x0D, BitVec.ofNat 8 (brewLength tlv), 0x83, 0xF0, bevId, trigger] ++ tlv
  pre ++ crc16 pre

/-- `BREW` on its operands (R163): the frame in `OBUF`, `LEN_OVF` when the length value does not fit its byte. -/
def buildBrew (c : TlvTables) (bevId trigger : Byte) (params : ParamMap) (s : State) : State :=
  let tlv := tlvEncode c params
  complete (brewFlags (decide (255 < brewLength tlv))) (brewFrame bevId trigger tlv) .none s

end Sys2Proof.Machine
end

