-- ==== Sys2Proof/Machine/FrameCommands.lean ====
section
/-! DEFINITION. The framer commands (spec/42_frame_decode R137, R143, R148; spec/43_frame_build R163). They compute their checksums with the
pure function and leave the `CRC` register as it was (spec/10_state R13, spec/70 R311). -/

namespace Sys2Proof.Machine

/-- `MON_DEC frame` (R137), strict. -/
def execMonDec (frame : Bytes) (s : State) : Outcome := withOperands [frame] s (.next (decodeMonitor frame s))

/-- `RCP_DEC frame` (R143), lenient. -/
def execRcpDec (frame : Bytes) (s : State) : Outcome := withOperands [frame] s (.next (decodeRecipe Config.tables frame s))

/-- `PROP_DEC frame` (R148), lenient. -/
def execPropDec (frame : Bytes) (s : State) : Outcome := withOperands [frame] s (.next (decodeProperty frame s))

/-- `BREW bev_id, trigger, params` (R163): "No validation of beverage ID or parameter ranges is performed" (R165). -/
def execBrew (bevId trigger : Byte) (params : ParamMap) (s : State) : Outcome :=
  .next (buildBrew Config.tables bevId trigger params s)

end Sys2Proof.Machine
end

