-- ==== Sys2Proof/Machine/Kdf.lean ====
section
/-! DEFINITION. The key derivation as a pure function (spec/44_hash_hmac_kdf R184 to R187). -/

namespace Sys2Proof.Machine

/-- The four nonce fields of `DERIVE` (R185). -/
structure Nonces where
  appRandom    : Bytes
  deviceRandom : Bytes
  appTime      : Bytes
  deviceTime   : Bytes
deriving DecidableEq, Repr

/-- The five secrets (R186). -/
structure Secrets where
  kSign : Bytes
  kApp  : Bytes
  ivApp : Bytes
  kDev  : Bytes
  ivDev : Bytes
deriving DecidableEq, Repr

/-- `M_app(d)`: app random, device random, app time, device time, discriminator (R185). -/
def appMessage (n : Nonces) (d : Byte) : Bytes := n.appRandom ++ n.deviceRandom ++ n.appTime ++ n.deviceTime ++ [d]

/-- `M_dev(d)`: "swapped to device-random, app-random, device-time, app-time" (R185). -/
def deviceMessage (n : Nonces) (d : Byte) : Bytes := n.deviceRandom ++ n.appRandom ++ n.deviceTime ++ n.appTime ++ [d]

/-- `S(lan_key, M)`: the nested construction (R184). -/
def nestedHmac (lanKey m : Bytes) : Bytes := hmac lanKey (hmac lanKey m ++ m)

/-- The five secrets of R186; the IV seeds are "truncated to first 16 bytes of the HMAC output". -/
def deriveSecrets (lanKey : Bytes) (n : Nonces) : Secrets where
  kSign := nestedHmac lanKey (appMessage n 0x30)
  kApp  := nestedHmac lanKey (appMessage n 0x31)
  ivApp := (nestedHmac lanKey (appMessage n 0x32)).take 16
  kDev  := nestedHmac lanKey (deviceMessage n 0x31)
  ivDev := (nestedHmac lanKey (deviceMessage n 0x32)).take 16

end Sys2Proof.Machine
end

