-- ==== Sys2Proof/Machine/KeyCommands.lean ====
section
/-! DEFINITION. The key commands (spec/44_hash_hmac_kdf R188 to R190): the LAN key, the five secrets, the session state (R230). -/

namespace Sys2Proof.Machine

/-- The five secrets written together, "replaced wholesale on periodic rekey; never partially mutated" (R16, R189). -/
def installSecrets (x : Secrets) (s : State) : State :=
  { s with kSign := some x.kSign, kApp := some x.kApp, ivApp := some x.ivApp, kDev := some x.kDev, ivDev := some x.ivDev }

/-- `SETKEY key`: "every `SETKEY` invalidates a live session, even with an identical key" (R188). -/
def execSetKey (key : Bytes) (s : State) : Outcome :=
  withOperands [key] s (.next (complete noFlags [] .none (invalidate { s with lanKey := some key })))

/-- `DERIVE app_random, device_random, app_time, device_time` (R189): `NO_LANKEY` without a LAN key, else all five secrets and
`SESS <- DERIVED` in every session state. -/
def execDerive (appRandom deviceRandom appTime deviceTime : Bytes) (s : State) : Outcome :=
  withOperands [appRandom, deviceRandom, appTime, deviceTime] s <|
    match s.lanKey with
    | none => raised .noLanKey s
    | some k =>
      .next (complete noFlags [] .none
        (installSecrets (deriveSecrets k ⟨appRandom, deviceRandom, appTime, deviceTime⟩) { s with sess := .derived }))

/-- `EXPIRE`: a live session ends, `LAN_KEY` is kept (R190). -/
def execExpire (s : State) : Outcome := .next (complete noFlags [] .none (invalidate s))

end Sys2Proof.Machine
end

