-- ==== Sys2Proof/Machine/TextCommands.lean ====
section
/-! DEFINITION. The text commands (spec/45_aes_cbc R242, R244, R246, R247). -/

namespace Sys2Proof.Machine

/-- An encoder's end: `OPERAND` "only if the result exceeds `OBUF_SIZE` (impossible with the defaults)" (R242, R246). -/
def deliverText (out : Bytes) (s : State) : Outcome := if resultTooLong out then raised .operand s else delivered out s

/-- A decoder's end: the bytes, or its status with an empty `OBUF` (R244, R247). -/
def deliverDecoded (st : Status) (out : Option Bytes) (s : State) : Outcome :=
  match out with
  | some b => delivered b s
  | none => raised st s

/-- `B64E data` (R242). -/
def execB64e (data : Bytes) (s : State) : Outcome := withOperands [data] s (deliverText (b64Encode data) s)

/-- `B64D text` (R244). -/
def execB64d (text : Bytes) (s : State) : Outcome := withOperands [text] s (deliverDecoded .badB64 (b64Decode text) s)

/-- `HEXE data` (R246). -/
def execHexe (data : Bytes) (s : State) : Outcome := withOperands [data] s (deliverText (hexEncode data) s)

/-- `HEXD text` (R247). -/
def execHexd (text : Bytes) (s : State) : Outcome := withOperands [text] s (deliverDecoded .badHex (hexDecode text) s)

end Sys2Proof.Machine
end

