-- ==== Sys2Proof/Machine/TlvCommands.lean ====
section
/-! DEFINITION. The TLV commands (spec/41_tlv R112, R114, R117). None of them has a status of its own (R275). -/

namespace Sys2Proof.Machine

/-- `TLV_DEC data` on its bytes: `RES.params <- tlv_decode(data)`, `OBUF <- empty`; truncation raises no flag (R112). -/
def completeTlvDec (c : TlvTables) (data : Bytes) (s : State) : State := complete noFlags [] (.params (tlvDecode c data)) s

/-- `TLV_DEC data` (R112). -/
def execTlvDec (data : Bytes) (s : State) : Outcome := withOperands [data] s (.next (completeTlvDec Config.tables data s))

/-- `TLV_ENC params`: `OBUF <- tlv_encode(params)`, at most 768 bytes (R114). -/
def execTlvEnc (params : ParamMap) (s : State) : Outcome := .next (complete noFlags (tlvEncode Config.tables params) .none s)

/-- `TLV_NAME tag` on its tag: the name in `OBUF`, `FOUND` when the tag is in `TLV_NAMES` (R117). An entry that breaks D35 counts as
absent, DESIGN CHOICE (notes/assumptions/6.md). -/
def completeTlvName (c : TlvTables) (tag : Byte) (s : State) : State :=
  complete (nameFlags (namedTag c tag).isSome) (tagName c tag) .none s

/-- `TLV_NAME tag` (R117). -/
def execTlvName (tag : Byte) (s : State) : Outcome := .next (completeTlvName Config.tables tag s)

end Sys2Proof.Machine
end

