-- ==== Sys2Proof/Machine/WireCommands.lean ====
section
/-! DEFINITION. The wire rows of the opcode table. The effect of each is what the row's own rule says the block does with the format: the
decoders' for the frames it parses (R136, R142, R147), the builder's for the frame it produces (R161), `tlv_decode` for an entry (R118).
No row adds an effect that a command does not have. DESIGN CHOICE (notes/assumptions/3.md, 4.md). -/

namespace Sys2Proof.Machine

/-- `frame.brew` (R161): the builder's frame for the beverage, the trigger and the parameters of the TLV region; its length byte and CRC
are computed, not copied. -/
def execFrameBrew (length bevId trigger : Byte) (tlv : Bytes) (crc : Half) (s : State) : Outcome :=
  withOperands [encode (.frameBrew length bevId trigger tlv crc)] s <|
    .next (buildBrew Config.tables bevId trigger (tlvDecode Config.tables tlv) s)

/-- `frame.recipe_profile` (R142): the recipe decoder on the frame's bytes. -/
def execFrameRecipeProfile (length profile bevId : Byte) (tlv : Bytes) (crc : Half) (s : State) : Outcome :=
  let f := encode (.frameRecipeProfile length profile bevId tlv crc)
  withOperands [f] s (.next (decodeRecipe Config.tables f s))

/-- `frame.recipe_default` (R142): the recipe decoder on the frame's bytes. -/
def execFrameRecipeDefault (length bevId : Byte) (tlv : Bytes) (crc : Half) (s : State) : Outcome :=
  let f := encode (.frameRecipeDefault length bevId tlv crc)
  withOperands [f] s (.next (decodeRecipe Config.tables f s))

/-- `frame.property` (R147): the property decoder on the frame's bytes. -/
def execFrameProperty (length : Byte) (opcode : Half) (payload : Bytes) (crc : Half) (s : State) : Outcome :=
  let f := encode (.frameProperty length opcode payload crc)
  withOperands [f] s (.next (decodeProperty f s))

/-- `frame.monitor` (R136): the strict monitor decoder on the frame's bytes. -/
def execFrameMonitor (frame : MonitorFrame) (s : State) : Outcome :=
  let f := encode (.frameMonitor frame)
  withOperands [f] s (.next (decodeMonitor f s))

/-- `tlv.entry1` (R118): the TLV decoder on the two bytes of the entry. -/
def execTlvEntry1 (tag value : Byte) (s : State) : Outcome :=
  .next (completeTlvDec Config.tables (encode (.tlvEntry1 tag value)) s)

/-- `tlv.entry2` (R118): the TLV decoder on the three bytes of the entry. -/
def execTlvEntry2 (tag : Byte) (value : Half) (s : State) : Outcome :=
  .next (completeTlvDec Config.tables (encode (.tlvEntry2 tag value)) s)

end Sys2Proof.Machine
end

