-- ==== Sys2Proof/Machine/Dispatch.lean ====
section
/-! DEFINITION. One arm per instruction of spec/opcode_table.json. -/

namespace Sys2Proof.Machine

def exec (i : Instr) (s : State) : Host.Outcome State Fault Refusal :=
  match i with
  | .nop => Sys2Proof.Machine.execNop s
  | .reset => Sys2Proof.Machine.execReset s
  | .crc16 data => Sys2Proof.Machine.execCrc16 data s
  | .crcInit => Sys2Proof.Machine.execCrcInit s
  | .crcUpd data => Sys2Proof.Machine.execCrcUpd data s
  | .tlvDec data => Sys2Proof.Machine.execTlvDec data s
  | .tlvEnc params => Sys2Proof.Machine.execTlvEnc params s
  | .tlvName tag => Sys2Proof.Machine.execTlvName tag s
  | .monDec frame => Sys2Proof.Machine.execMonDec frame s
  | .rcpDec frame => Sys2Proof.Machine.execRcpDec frame s
  | .propDec frame => Sys2Proof.Machine.execPropDec frame s
  | .brew bevId trigger params => Sys2Proof.Machine.execBrew bevId trigger params s
  | .setKey key => Sys2Proof.Machine.execSetKey key s
  | .derive appRandom deviceRandom appTime deviceTime => Sys2Proof.Machine.execDerive appRandom deviceRandom appTime deviceTime s
  | .expire => Sys2Proof.Machine.execExpire s
  | .enc plaintext => Sys2Proof.Machine.execEnc plaintext s
  | .dec ciphertext => Sys2Proof.Machine.execDec ciphertext s
  | .sign plaintext => Sys2Proof.Machine.execSign plaintext s
  | .b64e data => Sys2Proof.Machine.execB64e data s
  | .b64d text => Sys2Proof.Machine.execB64d text s
  | .hexe data => Sys2Proof.Machine.execHexe data s
  | .hexd text => Sys2Proof.Machine.execHexd text s
  | .frameBrew length bevId trigger tlv crc => Sys2Proof.Machine.execFrameBrew length bevId trigger tlv crc s
  | .frameRecipeProfile length profile bevId tlv crc => Sys2Proof.Machine.execFrameRecipeProfile length profile bevId tlv crc s
  | .frameRecipeDefault length bevId tlv crc => Sys2Proof.Machine.execFrameRecipeDefault length bevId tlv crc s
  | .frameProperty length opcode payload crc => Sys2Proof.Machine.execFrameProperty length opcode payload crc s
  | .frameMonitor frame => Sys2Proof.Machine.execFrameMonitor frame s
  | .tlvEntry1 tag value => Sys2Proof.Machine.execTlvEntry1 tag value s
  | .tlvEntry2 tag value => Sys2Proof.Machine.execTlvEntry2 tag value s

end Sys2Proof.Machine
end

