-- ==== Sys2Proof/Machine/Step.lean ====
section
/-! DEFINITION. One step of the block: one command, atomic (spec/20_memory R49, R50). -/

namespace Sys2Proof.Machine

/-- One step: the oldest offer is taken from the port, decoded whole (R53, R60) and executed; what does not decode raises `BADCMD`
(R64); with nothing offered "the block is idle and its state holds" (R286). -/
def step (s : State) : Host.Outcome State Fault Refusal :=
  match fetch s with
  | none => .next s
  | some (o, s') =>
    match decodeOffer o with
    | .ok i => exec i s'
    | .error _ => .next (badCommand s')

/-- The state with an opcode-table word offered ahead of everything held at the port. -/
def State.withFetchWord (s : State) (nbits w : Nat) : State := { s with port := tableOffer nbits w :: s.port }

end Sys2Proof.Machine
end

