-- ==== Sys2Proof/Machine/HostRead.lean ====
section
/-! DEFINITION. What the host can read (spec/20_memory R41): `OBUF[i]`, the registers, the fields of `RES`. `LAN_KEY` and the secrets are
not among them (R15, R16). A read has no side effect (R48): it is a function of the state. -/

namespace Sys2Proof.Machine

/-- What a host read names. -/
inductive HostReg where
  | status
  | flags
  | sstat
  | crc
  | olen
  | obuf (i : Nat)
  | res (f : ResField)
deriving DecidableEq, Repr

/-- What a host read returns. -/
inductive HostValue where
  | byte (v : Byte)
  | half (v : Half)
  | count (n : Nat)
  | bytes (b : Bytes)
  | params (m : ParamMap)
  | names (v : List (Name × Half))
deriving DecidableEq, Repr

/-- The code of a recipe format (R142). -/
def RecipeFormat.code : RecipeFormat → Byte
  | .unknown => 0
  | .profile => 1
  | .default => 2

/-- The code of a property kind (R147). -/
def PropertyKind.code : PropertyKind → Byte
  | .none => 0
  | .frame => 1

/-- A field of the monitor record (R136). -/
def monitorField (r : MonitorRecord) : ResField → Option HostValue
  | .direction => some (.byte r.direction)
  | .length => some (.byte r.length)
  | .requestId => some (.byte r.requestId)
  | .answerRequired => some (.byte r.answerRequired)
  | .accessory => some (.byte r.accessory)
  | .switches => some (.bytes r.switches.toList)
  | .alarms => some (.bytes r.alarms.toList)
  | .status => some (.byte r.status)
  | .action => some (.byte r.action)
  | .progress => some (.byte r.progress)
  | .rsv => some (.bytes r.rsv.toList)
  | .crc => some (.half r.crc)
  | .timestamp => r.timestamp.map fun t => .bytes t.toList
  | .rawlen => some (.half r.rawlen)
  | _ => none

/-- A field of the recipe record (R142). -/
def recipeField (c : TlvTables) (r : RecipeRecord) : ResField → Option HostValue
  | .format => some (.byte r.format.code)
  | .cmd => r.cmd.map .half
  | .declaredLen => r.declaredLen.map .byte
  | .profile => r.profile.map .byte
  | .bevId => r.bevId.map .byte
  | .params => r.params.map .params
  | .namedView => r.params.map fun m => .names (namedView c m)
  | _ => none

/-- A field of the property record (R147). -/
def propertyField (r : PropertyRecord) : ResField → Option HostValue
  | .kind => some (.byte r.kind.code)
  | .opcode => r.opcode.map .half
  | .declaredLen => r.declaredLen.map .byte
  | _ => none

/-- A field of `RES`, none when the last command did not produce it (R21). -/
def resField (c : TlvTables) : Res → ResField → Option HostValue
  | .none, _ => none
  | .crc v, .crc => some (.half v)
  | .crc _, _ => none
  | .params m, .params => some (.params m)
  | .params _, _ => none
  | .monitor r, f => monitorField r f
  | .rawlen n, .rawlen => some (.half n)
  | .rawlen _, _ => none
  | .recipe r, f => recipeField c r f
  | .property r, f => propertyField r f

/-- A host read: its value, or the fault of reading what is not there (R21, R41). -/
def hostRead (s : State) : HostReg → Except Fault HostValue
  | .status => .ok (.byte s.status)
  | .flags => .ok (.byte s.flags)
  | .sstat => .ok (.byte (sstat s))
  | .crc => .ok (.half s.crc)
  | .olen => .ok (.count (olen s))
  | .obuf i =>
    match Memory.read s.obuf i with
    | some b => .ok (.byte b)
    | none => .error (.obufIndex i)
  | .res f =>
    match resField Config.tables s.res f with
    | some v => .ok v
    | none => .error (.resField f)

end Sys2Proof.Machine
end

