-- ==== Sys2Proof/Machine/View.lean ====
section
/-! DEFINITION. The monitor semantic view (spec/46_monitor_view R250 to R260): pure functions of a profile and of a monitor record or none.
`Option Bool` is the three-valued result, `none` for "unknown"; "No function raises". -/

namespace Sys2Proof.Machine

/-- What the view looks at: the record of the last command when that was a successful `MON_DEC`, else none (46, section 2). -/
def viewFrame (s : State) : Option MonitorRecord :=
  match s.res with
  | .monitor r => some r
  | _ => none

/-- Load-time validation: "no name is both a flag and a predicate" (R254); the shapes of R251 and R253 hold by type. -/
def profileAccepted (p : MonitorProfile) : Bool := p.flags.all fun f => !(p.predicates.any fun q => q.1 == f.1)

/-- A profile with no table entry. -/
def emptyProfile : MonitorProfile := { flags := [], enums := [], predicates := [] }

/-- Loading a profile: an accepted one is taken as it is; a rejected one (R254, D38), or none, leaves every table empty, so that "every
name is `not_found`" (R302). -/
def loadProfile : Option MonitorProfile → MonitorProfile
  | some p => if profileAccepted p then p else emptyProfile
  | none => emptyProfile

/-- The profile the view uses: the supplied one when it was accepted (R254). -/
def loadedProfile : MonitorProfile := loadProfile Config.monitorProfile

/-- `code(frame, f)` (R255). -/
def viewCode (frame : Option MonitorRecord) (f : CodeField) : Option Byte :=
  frame.map fun r =>
    match f with
    | .status => r.status
    | .action => r.action
    | .progress => r.progress
    | .accessory => r.accessory

/-- The byte array of a bit source, in frame order (R256). -/
def sourceBytes (r : MonitorRecord) : BitSource → Bytes
  | .alarms => r.alarms.toList
  | .switches => r.switches.toList

/-- `bit_of(frame, source, byte, bit)`: bit 0 is the least significant; out of range is unknown (R256). -/
def viewBit (frame : Option MonitorRecord) (source : BitSource) (byte bit : Nat) : Option Bool :=
  match frame with
  | none => none
  | some r => if 7 < bit then none else ((sourceBytes r source)[byte]?).map fun b => b.getLsbD bit

/-- `flag(frame, name)`: inversion "applies to a known bit only" (R257). -/
def viewFlag (p : MonitorProfile) (frame : Option MonitorRecord) (name : Name) : Option Bool :=
  match p.flags.lookup name with
  | none => none
  | some d => (viewBit frame d.source d.byte d.bit).map fun b => b ^^ d.invert

/-- The decimal digits of a code, "no leading zeros, no prefix" (R258). -/
def decimal (c : Byte) : Name :=
  let digit (n : Nat) : Byte := 0x30 + BitVec.ofNat 8 (n % 10)
  if c.toNat < 10 then [digit c.toNat]
  else if c.toNat < 100 then [digit (c.toNat / 10), digit c.toNat]
  else [digit (c.toNat / 100), digit (c.toNat / 10), digit c.toNat]

/-- `enum_name(frame, f)`: "falling back to the stringified code if no mapping exists" (R258). -/
def viewEnum (p : MonitorProfile) (frame : Option MonitorRecord) (f : CodeField) : Option Name :=
  (viewCode frame f).map fun c => (p.enums.lookup (f, c)).getD (decimal c)

/-- A predicate definition evaluated on a frame (R259). -/
def evalPredicate (p : MonitorProfile) (frame : Option MonitorRecord) : Predicate → Option Bool
  | .equals f v => (viewCode frame f).map fun c => c == v
  | .notEquals f v => (viewCode frame f).map fun c => c != v
  | .inSet f vs => (viewCode frame f).map fun c => vs.contains c
  | .notInSet f vs => (viewCode frame f).map fun c => !vs.contains c
  | .flagTrue n => viewFlag p frame n
  | .flagFalse n => (viewFlag p frame n).map fun b => !b
  | .bitSet src y k => viewBit frame src y k
  | .bitClear src y k => (viewBit frame src y k).map fun b => !b

/-- `pred(frame, name)` (R259). -/
def viewPredicate (p : MonitorProfile) (frame : Option MonitorRecord) (name : Name) : Option Bool :=
  match p.predicates.lookup name with
  | none => none
  | some d => evalPredicate p frame d

/-- The tagged result of a lookup (R260). -/
inductive LookupResult where
  | flag (v : Option Bool)
  | predicate (v : Option Bool)
  | notFound
deriving DecidableEq, Repr

/-- `lookup(frame, name)`: flags first, then predicates, "`not_found` (the name is in no table) is distinct from `None`" (R260). -/
def viewLookup (p : MonitorProfile) (frame : Option MonitorRecord) (name : Name) : LookupResult :=
  if (p.flags.lookup name).isSome then .flag (viewFlag p frame name)
  else if (p.predicates.lookup name).isSome then .predicate (viewPredicate p frame name)
  else .notFound

/-- The lookup of a name in the loaded profile on the record the block holds (R260, R302). -/
def lookupNow (s : State) (name : Name) : LookupResult := viewLookup loadedProfile (viewFrame s) name

end Sys2Proof.Machine
end

