-- ==== Sys2Proof/Safety.lean ====
section
/-! DEFINITION. What a good state is, in the terms the statements use: the invariants of spec/45_aes_cbc R231 and of spec/10_state R15 to R22,
and the spec's second descriptions of the CRC (spec/40_crc16 R102). -/

namespace Sys2Proof.Machine

/-- R231 (a), for the five registers: all hold values exactly when `SESS` is `DERIVED` or `ACTIVE`. -/
def SecretsMatchSess (s : State) : Prop :=
  s.kSign.isSome = s.sess.live ∧ s.kApp.isSome = s.sess.live ∧ s.ivApp.isSome = s.sess.live ∧
    s.kDev.isSome = s.sess.live ∧ s.ivDev.isSome = s.sess.live

/-- R231 (b): `SESS != UNINIT` implies `LAN_KEY != none`. -/
def SessNeedsLanKey (s : State) : Prop := s.sess ≠ .uninit → s.lanKey ≠ none

/-- R231 (c) and (d): in a live session the three keys come from one derivation from the LAN key the block holds, and so do both IVs
while no message has rotated them. -/
def SecretsFromOneDerive (s : State) : Prop :=
  s.sess.live = true → ∃ k n, s.lanKey = some k ∧
    s.kSign = some (deriveSecrets k n).kSign ∧ s.kApp = some (deriveSecrets k n).kApp ∧ s.kDev = some (deriveSecrets k n).kDev ∧
    (s.sess = .derived → s.ivApp = some (deriveSecrets k n).ivApp ∧ s.ivDev = some (deriveSecrets k n).ivDev)

/-- The invariants of the session state (R231). -/
def SessionInv (s : State) : Prop := SecretsMatchSess s ∧ SessNeedsLanKey s ∧ SecretsFromOneDerive s

/-- A register of `n` bytes or none. -/
def holdsBytes (n : Nat) (v : Option Bytes) : Prop := ∀ b, v = some b → b.length = n

/-- The widths of R15 and R16. -/
def WidthInv (s : State) : Prop :=
  (∀ k, s.lanKey = some k → k.length ≤ Config.maxOperand) ∧ holdsBytes 32 s.kSign ∧ holdsBytes 32 s.kApp ∧ holdsBytes 16 s.ivApp ∧
    holdsBytes 32 s.kDev ∧ holdsBytes 16 s.ivDev

/-- `STATUS` holds one of the twelve codes: "No other value of `STATUS` ever occurs" (R270). -/
def StatusLegal (s : State) : Prop := ∃ st : Status, s.status = st.code

/-- Bits 6 and 7 of `FLAGS` read 0 (R19). -/
def FlagsLegal (s : State) : Prop := s.flags &&& 0xC0 = 0

/-- A mapping that `RES` holds is in canonical form (R22). -/
def ResCanonical (s : State) : Prop :=
  match s.res with
  | .params m => m.Sorted
  | .recipe r => ∀ m, r.params = some m → m.Sorted
  | _ => True

/-- The form of the result registers: `OLEN <= OBUF_SIZE` (R17), R270, R19, R22. -/
def ResultInv (s : State) : Prop := Memory.wf s.obuf = true ∧ StatusLegal s ∧ FlagsLegal s ∧ ResCanonical s

/-- A good state. -/
def Inv (s : State) : Prop := SessionInv s ∧ WidthInv s ∧ ResultInv s

/-- A good run never stops: each step answers a next state (R54, R61, R304). -/
def Completes (o : Outcome) : Prop := ∃ t, o = .next t

/-- The instructions that read or write a session register (R15, R16). -/
def usesSession : Instr → Bool
  | .reset | .setKey _ | .derive .. | .expire | .enc _ | .dec _ | .sign _ => true
  | .nop | .crc16 _ | .crcInit | .crcUpd _ | .tlvDec _ | .tlvEnc _ | .tlvName _ | .monDec _ | .rcpDec _ | .propDec _ | .brew .. | .b64e _
  | .b64d _ | .hexe _ | .hexd _ | .frameBrew .. | .frameRecipeProfile .. | .frameRecipeDefault .. | .frameProperty .. | .frameMonitor _
  | .tlvEntry1 .. | .tlvEntry2 .. => false

/-- The instructions that write the `CRC` register (R13). -/
def writesCrc : Instr → Bool
  | .reset | .crc16 _ | .crcInit | .crcUpd _ => true
  | .nop | .tlvDec _ | .tlvEnc _ | .tlvName _ | .monDec _ | .rcpDec _ | .propDec _ | .brew .. | .setKey _ | .derive .. | .expire
  | .enc _ | .dec _ | .sign _ | .b64e _ | .b64d _ | .hexe _ | .hexd _ | .frameBrew .. | .frameRecipeProfile .. | .frameRecipeDefault ..
  | .frameProperty .. | .frameMonitor _ | .tlvEntry1 .. | .tlvEntry2 .. => false

/-- The session registers of two states agree. -/
def SameSession (s t : State) : Prop :=
  t.sess = s.sess ∧ t.lanKey = s.lanKey ∧ t.kSign = s.kSign ∧ t.kApp = s.kApp ∧ t.ivApp = s.ivApp ∧ t.kDev = s.kDev ∧ t.ivDev = s.ivDev

/-- Two states agree on everything but the LAN key and the five secrets, and the host sees the same `SSTAT`. -/
def SameButSecrets (s t : State) : Prop :=
  t.port = s.port ∧ t.crc = s.crc ∧ t.sess = s.sess ∧ t.lanKey.isSome = s.lanKey.isSome ∧ t.obuf = s.obuf ∧ t.status = s.status ∧
    t.flags = s.flags ∧ t.res = s.res

/-! ## Results, operands and statuses, as the statements name them -/

/-- `s` with its four result registers replaced (R17, R18, R19, R21) and nothing else. -/
def State.withResults (s : State) (status flags : Byte) (obuf : Bytes) (res : Res) : State :=
  { s with status := status, flags := flags, obuf := obuf, res := res }

/-- `s` with the session state and the five secrets replaced (R14, R16) and nothing else. -/
def State.withSession (s : State) (sess : Sess) (kSign kApp ivApp kDev ivDev : Option Bytes) : State :=
  { s with sess := sess, kSign := kSign, kApp := kApp, ivApp := ivApp, kDev := kDev, ivDev := ivDev }

/-- Every element of state at its value of the table of R24. -/
def AtReset (s : State) : Prop :=
  s.crc = 0x1D0F ∧ s.sess = .uninit ∧ s.lanKey = none ∧ s.kSign = none ∧ s.kApp = none ∧ s.ivApp = none ∧ s.kDev = none ∧
    s.ivDev = none ∧ s.obuf = [] ∧ olen s = 0 ∧ s.status = 0x00 ∧ s.flags = 0x00 ∧ sstat s = 0x00 ∧ s.res = .none

/-- The 22 commands of R62, the instructions a descriptor can hold; the other rows of the opcode table are wire formats. -/
def isCommand (i : Instr) : Bool := encodeOffer i == .descriptor (encode i)

/-- The bytes of a TLV entry (R71). -/
def entryBytes (c : TlvTables) (e : Byte × Half) : Bytes :=
  if e.1 ∈ c.twoByteTags then [e.1, hi8 e.2, lo8 e.2] else [e.1, lo8 e.2]

/-- Bytes too few for one more entry: nothing, a lone tag, a two-byte tag with one byte (R118). -/
def TooShortForAnEntry (c : TlvTables) (tail : Bytes) : Prop :=
  tail = [] ∨ (∃ t, tail = [t]) ∨ ∃ t v, tail = [t, v] ∧ t ∈ c.twoByteTags

/-- The name tables that R116 and D35 allow: ASCII names that fit `OBUF`, none twice, none `0x` followed by two hex digits. -/
def NamesMeetD35 (c : TlvTables) : Prop :=
  (∀ t n, tableEntry c t = some n → (∀ b ∈ n, b < 128) ∧ n.length ≤ Config.obufSize ∧
    ∀ x y, isHexDigit x = true → isHexDigit y = true → n ≠ [0x30, 0x78, x, y]) ∧
  ∀ t u n, tableEntry c t = some n → tableEntry c u = some n → t = u

/-- The fields of `RES` the host can read are exactly the listed ones, with the listed values (R21). -/
def ResReads (s : State) (fields : List (ResField × HostValue)) : Prop :=
  (∀ e ∈ fields, hostRead s (.res e.1) = .ok e.2) ∧ ∀ f, f ∉ fields.map Prod.fst → hostRead s (.res f) = .error (.resField f)

/-- A profile-scoped recipe frame of at least 8 bytes (R69). -/
def IsProfileFrame (f : Bytes) : Prop := ∃ len prof bev tlv c₁ c₀, f = [0xD0, len, 0xA6, 0xF0, prof, bev] ++ tlv ++ [c₁, c₀]

/-- A default recipe frame of at least 7 bytes (R69). -/
def IsDefaultFrame (f : Bytes) : Prop := ∃ len bev tlv c₁ c₀, f = [0xD0, len, 0xB0, 0xF0, bev] ++ tlv ++ [c₁, c₀]

/-! ## The text forms written out (R241, R245, R246) -/

/-- The digits `0123456789abcdef` (R246). -/
def hexDigits : Bytes :=
  [0x30, 0x31, 0x32, 0x33, 0x34, 0x35, 0x36, 0x37, 0x38, 0x39, 0x61, 0x62, 0x63, 0x64, 0x65, 0x66]

/-- The digits `0123456789ABCDEF`, which decoding accepts too (R245). -/
def hexDigitsUpper : Bytes :=
  [0x30, 0x31, 0x32, 0x33, 0x34, 0x35, 0x36, 0x37, 0x38, 0x39, 0x41, 0x42, 0x43, 0x44, 0x45, 0x46]

/-- `val` of R245: the place of a character among the digits of either case. -/
def hexDigitValue (c : Byte) : Nat := if c ∈ hexDigits then hexDigits.idxOf c else hexDigitsUpper.idxOf c

/-- The base64 alphabet, value 0 to 63: `A` to `Z`, `a` to `z`, `0` to `9`, `+`, `/` (R241). -/
def b64Alphabet : Bytes :=
  [0x41, 0x42, 0x43, 0x44, 0x45, 0x46, 0x47, 0x48, 0x49, 0x4A, 0x4B, 0x4C, 0x4D, 0x4E, 0x4F, 0x50]
  ++ [0x51, 0x52, 0x53, 0x54, 0x55, 0x56, 0x57, 0x58, 0x59, 0x5A, 0x61, 0x62, 0x63, 0x64, 0x65, 0x66]
  ++ [0x67, 0x68, 0x69, 0x6A, 0x6B, 0x6C, 0x6D, 0x6E, 0x6F, 0x70, 0x71, 0x72, 0x73, 0x74, 0x75, 0x76]
  ++ [0x77, 0x78, 0x79, 0x7A, 0x30, 0x31, 0x32, 0x33, 0x34, 0x35, 0x36, 0x37, 0x38, 0x39, 0x2B, 0x2F]

/-- The character of a value below 64 (R241). -/
def b64Digit (v : Nat) : Byte := b64Alphabet.getD v 0

/-- The four characters of the 24 bits of three bytes (R242). -/
def b64Group (x y z : Byte) : Bytes :=
  let n := x.toNat * 65536 + y.toNat * 256 + z.toNat
  [b64Digit (n / 262144), b64Digit (n / 4096 % 64), b64Digit (n / 64 % 64), b64Digit (n % 64)]

/-- The three bytes of the 24 bits of four values (R243). -/
def b64GroupBytes (p q r s : Nat) : Bytes :=
  let n := p * 262144 + q * 4096 + r * 64 + s
  [BitVec.ofNat 8 (n / 65536), BitVec.ofNat 8 (n / 256), BitVec.ofNat 8 n]

/-- A byte string is an operand the block accepts (R64). -/
abbrev Fits (b : Bytes) : Prop := b.length ≤ Config.maxOperand

/-- The `bytes` operands of an instruction (R62); a wire frame counts as one operand, its bytes. -/
def bytesOperands : Instr → List Bytes
  | .crc16 d | .crcUpd d | .tlvDec d | .monDec d | .rcpDec d | .propDec d | .setKey d | .enc d | .dec d | .sign d | .b64e d | .b64d d
  | .hexe d | .hexd d => [d]
  | .derive ar dr atm dtm => [ar, dr, atm, dtm]
  | .nop | .reset | .crcInit | .tlvEnc _ | .tlvName _ | .brew .. | .expire | .tlvEntry1 .. | .tlvEntry2 .. => []
  | .frameBrew l b t tlv c => [encode (.frameBrew l b t tlv c)]
  | .frameRecipeProfile l p b tlv c => [encode (.frameRecipeProfile l p b tlv c)]
  | .frameRecipeDefault l b tlv c => [encode (.frameRecipeDefault l b tlv c)]
  | .frameProperty l o pl c => [encode (.frameProperty l o pl c)]
  | .frameMonitor f => [encode (.frameMonitor f)]

/-- The statuses an instruction can end with when its operands fit (R275), 0 among them. -/
def ownStatuses : Instr → List Byte
  | .monDec _ | .frameMonitor _ => [0x00, 0x10, 0x11, 0x12, 0x13]
  | .derive .. => [0x00, 0x22]
  | .enc _ => [0x00, 0x20, 0x02]
  | .dec _ => [0x00, 0x20, 0x21]
  | .sign _ => [0x00, 0x20]
  | .b64d _ => [0x00, 0x30]
  | .hexd _ => [0x00, 0x31]
  | .nop | .reset | .crc16 _ | .crcInit | .crcUpd _ | .tlvDec _ | .tlvEnc _ | .tlvName _ | .rcpDec _ | .propDec _ | .brew .. | .setKey _
  | .expire | .b64e _ | .hexe _ | .frameBrew .. | .frameRecipeProfile .. | .frameRecipeDefault .. | .frameProperty .. | .tlvEntry1 ..
  | .tlvEntry2 .. => [0x00]

/-- The frame a monitor decode works on: the operand of `MON_DEC`, the bytes of a wire monitor frame. -/
def monitorOperand : Instr → Option Bytes
  | .monDec f => some f
  | .frameMonitor f => some (encode (.frameMonitor f))
  | _ => none

/-- The 22 opcode bytes (R62). -/
def commandOpcodes : List Byte :=
  [0x00, 0x01, 0x10, 0x11, 0x12, 0x20, 0x21, 0x22, 0x30, 0x31, 0x32, 0x40, 0x50, 0x51, 0x52, 0x60, 0x61, 0x62, 0x70, 0x71, 0x72, 0x73]

/-- The reserved opcode bytes, by the ranges of R65. -/
def reservedOpcode (op : Byte) : Bool :=
  (0x02 ≤ op && op ≤ 0x0F) || (0x13 ≤ op && op ≤ 0x1F) || (0x23 ≤ op && op ≤ 0x2F) || (0x33 ≤ op && op ≤ 0x3F) ||
  (0x41 ≤ op && op ≤ 0x4F) || (0x53 ≤ op && op ≤ 0x5F) || (0x63 ≤ op && op ≤ 0x6F) || 0x74 ≤ op

/-- The value a tag's entry carries: 16 bits of a two-byte tag, the low 8 bits otherwise (R113). -/
def maskedValue (c : TlvTables) (t : Byte) (v : Half) : Half := if c.width t = 2 then v else v &&& 0x00FF

/-- The test configuration CFG-A (spec/95_test_vectors): the spec's own, says nothing about the real device. -/
def cfgA : TlvTables := { twoByteTags := [], priority := [0x01, 0x1B, 0x02], names := [] }

/-- The test configuration CFG-B (spec/95_test_vectors). -/
def cfgB : TlvTables := { twoByteTags := [0x09, 0x0F], priority := [0x19, 0x01, 0x1B, 0x02], names := [] }

/-! ## The CRC described a second time (R102) -/

/-- One bit, most significant first: "`fb <- bits[15:15] of reg xor bit`, shift, xor the polynomial if `fb = 1`" (R102 law 3). -/
def crcBit (reg : Half) (bit : Bool) : Half := if reg.msb ^^ bit then (reg <<< 1) ^^^ 0x1021 else reg <<< 1

/-- The bits of a byte, most significant first. -/
def msbFirst (b : Byte) : List Bool := [7, 6, 5, 4, 3, 2, 1, 0].map fun k => b.getLsbD k

/-- The register after a byte string, bit by bit (R102 law 3). -/
def crcBitSerial (reg : Half) (b : Bytes) : Half := (b.flatMap msbFirst).foldl crcBit reg

/-- The table entry `T[i] = crc_step(0x0000, i)` (R102 law 4). -/
def crcTable (i : Byte) : Half := crcStep 0 i

/-- Bit `k` of byte `i` of a byte string flipped. -/
def flipBit (b : Bytes) (i k : Nat) : Bytes := b.set i (b.getD i 0 ^^^ BitVec.ofNat 8 (2 ^ k))

end Sys2Proof.Machine
end

