-- ==== Sys2Proof/Certificates/Slice0/Obligations.lean ====
section
/-! DEFINITION. The statements for the provers. -/

open Sys2Proof Sys2Proof.Machine

/-! ## Encoding and the step -/

/-- DECODE AND ENCODE AGREE (R62, R63, R67 to R71): every well-formed instruction, with every operand, is read back from its own offer. -/
def Obligations.DecodeOfEncodeIsTheInstruction : Prop :=
  ∀ i : Instr, i.wellFormed = true → decodeOffer (encodeOffer i) = .ok i

/-- "with nothing after the last operand" (R60, R63): bytes after a whole descriptor, and a descriptor cut short, are invalid, for every
byte string that decodes; and a `pmap` operand is read entry by entry in the order given, in any order and with repeated tags: "a later
entry with the same tag overwrites an earlier one" (R63). -/
def Obligations.NoDescriptorIsAPrefixOfAnother : Prop :=
  (∀ (d : Bytes) (i : Instr), decode d = .ok i →
    (∀ extra : Bytes, extra ≠ [] → ∀ j, decode (d ++ extra) ≠ .ok j) ∧
    (∀ p q : Bytes, d = p ++ q → q ≠ [] → ∀ j, decode p ≠ .ok j)) ∧
  ∀ entries : List (Byte × Half), entries.length < 65536 →
    let operand : Bytes := [hi8 (BitVec.ofNat 16 entries.length), lo8 (BitVec.ofNat 16 entries.length)] ++
      entries.flatMap fun e => [e.1, hi8 e.2, lo8 e.2]
    ∃ m : ParamMap, m.Sorted ∧ (∀ t, m.get? t = (entries.reverse.find? fun e => e.1 == t).map Prod.snd) ∧
      decode (0x21 :: operand) = .ok (.tlvEnc m) ∧ ∀ bev trig, decode (0x40 :: bev :: trig :: operand) = .ok (.brew bev trig m)

/-- R64: an invalid descriptor raises `BADCMD`; an operand longer than `MAX_OPERAND` raises `OPERAND`, whatever else holds, and no
descriptor can carry one. -/
def Obligations.InvalidDescriptorsAndLongOperandsRaise : Prop :=
  (∀ (s : State) (d : Bytes) (rest : List Offer), s.port = .descriptor d :: rest → (∀ i, decode d ≠ .ok i) →
    step s = .next (State.withResults { s with port := rest } 0x01 0x00 [] .none)) ∧
  (∀ j, decode [] ≠ .ok j) ∧
  (∀ (i : Instr) (s : State) (b : Bytes), isCommand i = true → b ∈ bytesOperands i → Config.maxOperand < b.length →
    exec i s = .next (s.withResults 0x02 0x00 [] .none)) ∧
  (∀ (d : Bytes) (i : Instr), decode d = .ok i → ∀ b ∈ bytesOperands i, Fits b)

/-- R65: the reserved opcodes are the bytes that R62 does not list, and a descriptor that begins with one raises `BADCMD`. -/
def Obligations.ReservedOpcodesRaiseBadCmd : Prop :=
  (∀ op : Byte, reservedOpcode op = true ↔ op ∉ commandOpcodes) ∧
  ∀ (op : Byte) (tail : Bytes) (s : State) (rest : List Offer), reservedOpcode op = true →
    s.port = .descriptor (op :: tail) :: rest →
    step s = .next (State.withResults { s with port := rest } 0x01 0x00 [] .none)

/-- A STEP RUNS THE DECODED INSTRUCTION (R49, R50, R60): the oldest offer, taken from the port; with nothing offered "its state holds"
(R286). -/
def Obligations.StepRunsTheOldestOffer : Prop :=
  (∀ (s : State) (o : Offer) (rest : List Offer) (i : Instr), s.port = o :: rest → decodeOffer o = .ok i →
    step s = exec i { s with port := rest }) ∧
  ∀ s : State, s.port = [] → step s = .next s

/-- Descriptors written out in spec/30_encoding (R65, examples) and spec/43 (R164), decoded. -/
def Obligations.WrittenDescriptorsDecode : Prop :=
  decode [0x00] = .ok .nop ∧
  decode [0x10, 0x00, 0x09, 0x31, 0x32, 0x33, 0x34, 0x35, 0x36, 0x37, 0x38, 0x39] =
    .ok (.crc16 [0x31, 0x32, 0x33, 0x34, 0x35, 0x36, 0x37, 0x38, 0x39]) ∧
  decode [0x22, 0x0A] = .ok (.tlvName 0x0A) ∧
  decode [0x40, 0x01, 0x01, 0x00, 0x03, 0x01, 0x00, 0x24, 0x1B, 0x00, 0x04, 0x02, 0x00, 0x05] =
    .ok (.brew 0x01 0x01 [(0x01, 36), (0x02, 5), (0x1B, 4)]) ∧
  decode [0x51, 0x00, 0x02, 0x41, 0x42, 0x00, 0x02, 0x43, 0x44, 0x00, 0x01, 0x31, 0x00, 0x01, 0x32] =
    .ok (.derive [0x41, 0x42] [0x43, 0x44] [0x31] [0x32]) ∧
  decode [0x52] = .ok .expire ∧
  encode (stopCommand) = [0x40, 0x10, 0x02, 0x00, 0x02, 0x0F, 0x00, 0xFA, 0x1B, 0x00, 0x01]

/-! ## Reset -/

/-- R24, R300: the state after hardware reset and after the `RESET` command, from every state; after reset the block waits for the first
command. -/
def Obligations.ResetStateIsTheTable : Prop :=
  AtReset State.reset ∧ (∀ s : State, ∃ t, exec .reset s = .next t ∧ AtReset t) ∧
  State.reset.port = [] ∧ ∀ k : Nat, Host.Core.run Sys2Proof.core k State.reset = .next State.reset

/-- R301: `RESET`, descriptor `01`, puts every element of state at its reset value, the LAN key too, so a `DERIVE` after it raises
`NO_LANKEY`; `01 xx` is `BADCMD` and resets nothing. -/
def Obligations.ResetCommandClearsTheLanKey : Prop :=
  decode [0x01] = .ok .reset ∧
  (∀ s : State, ∃ t, exec .reset s = .next t ∧ AtReset t ∧
    ∀ ar dr atm dtm : Bytes, Fits ar → Fits dr → Fits atm → Fits dtm →
      exec (.derive ar dr atm dtm) t = .next (t.withResults 0x22 0x00 [] .none)) ∧
  (∀ (s : State) (rest : List Offer) (x : Byte) (tail : Bytes), s.port = .descriptor (0x01 :: x :: tail) :: rest →
    step s = .next (State.withResults { s with port := rest } 0x01 0x00 [] .none))

/-! ## Invariants of every step -/

/-- The good states include the state after reset. -/
def Obligations.ResetIsGood : Prop := Inv State.reset

/-- R231: the session invariants hold after reset and every step keeps them, from every state that has them. -/
def Obligations.EveryStepKeepsTheSessionInvariants : Prop :=
  SessionInv State.reset ∧ ∀ s t : State, SessionInv s → step s = .next t → SessionInv t

/-- The widths of R15 and R16 hold after every step from a state that has them: keys of 32 bytes, IVs of 16, a LAN key of at most
`MAX_OPERAND`. -/
def Obligations.EveryStepKeepsTheRegisterWidths : Prop :=
  ∀ s t : State, WidthInv s → step s = .next t → WidthInv t

/-- The form of the result registers is kept by every step: `OLEN <= OBUF_SIZE` (R17), a status code of R270, reserved flag bits 0 (R19),
a mapping in canonical form (R22). -/
def Obligations.EveryStepKeepsTheResultForm : Prop :=
  ∀ s t : State, ResultInv s → step s = .next t → ResultInv t

/-- No run from a good state stops: whatever is offered, for any number of steps, the block answers a next state and it is good
(R54, R61, R304). -/
def Obligations.RunsFromGoodStatesNeverStop : Prop :=
  (∀ s : State, Inv s → ∀ k : Nat, ∃ t, Host.Core.run Sys2Proof.core k s = .next t ∧ Inv t) ∧
  ∀ (offers : List Offer) (k : Nat), ∃ t, Host.Core.run Sys2Proof.core k { State.reset with port := offers } = .next t ∧ Inv t

/-! ## Whole-machine rules -/

/-- R61, R271, R272: in every state that keeps R231 every command completes; it succeeds, or it raises one status and then no state other
than the result registers changes, with `RES` none but for the raw length of a monitor parse status. The wire rows of the opcode table are
among the instructions, the model's choice (notes/assumptions/3.md, 4.md). -/
def Obligations.CommandsSucceedOrChangeOnlyResults : Prop :=
  ∀ (i : Instr) (s : State), SessionInv s → ∃ t, exec i s = .next t ∧
    (t.status = 0x00 ∨ ∃ st : Status, st ≠ .ok ∧
      ((∃ f, monitorOperand i = some f ∧ st ∈ [Status.parseShort, .parseLength, .parseCrc, .parseContents] ∧
          t = s.withResults st.code 0x00 [] (.rawlen (BitVec.ofNat 16 f.length))) ∨
        (st ∉ [Status.parseShort, .parseLength, .parseCrc, .parseContents] ∧ t = s.withResults st.code 0x00 [] .none)))

/-- R275: which statuses each command can end with when its operands fit, from any state. R275 lists the commands alone; that a wire row of
the opcode table ends with the statuses of the rule it follows is the model's choice (notes/assumptions/3.md, 4.md). -/
def Obligations.StatusesOfEachCommand : Prop :=
  ∀ (i : Instr) (s t : State), (∀ b ∈ bytesOperands i, Fits b) → exec i s = .next t → t.status ∈ ownStatuses i

/-- `CRC` is "Written by `CRC16`, `CRC_INIT`, `CRC_UPD` and by reset only" (R13, R311). -/
def Obligations.OnlyCrcCommandsWriteCrc : Prop :=
  ∀ (i : Instr) (s t : State), writesCrc i = false → exec i s = .next t → t.crc = s.crc

/-- Who writes the session registers (R15, R16, R221, R227): `LAN_KEY` only `SETKEY` and `RESET`; the keys only `DERIVE`, `EXPIRE`,
`SETKEY`, `RESET`; besides these `IV_APP` only `ENC` and `IV_DEV` only `DEC`; `SIGN` and every other instruction none. -/
def Obligations.SessionRegistersHaveTheirWriters : Prop :=
  ∀ (i : Instr) (s t : State), exec i s = .next t →
    (usesSession i = false → SameSession s t) ∧
    (∀ p, i = .sign p → SameSession s t) ∧
    (∀ p, i = .enc p → t.lanKey = s.lanKey ∧ t.kSign = s.kSign ∧ t.kApp = s.kApp ∧ t.kDev = s.kDev ∧ t.ivDev = s.ivDev) ∧
    (∀ c, i = .dec c → t.lanKey = s.lanKey ∧ t.kSign = s.kSign ∧ t.kApp = s.kApp ∧ t.kDev = s.kDev ∧ t.ivApp = s.ivApp) ∧
    (i ≠ .reset → (∀ k, i ≠ .setKey k) → t.lanKey = s.lanKey)

/-- "held, never dropped or merged" (D2, R49): a step takes the oldest offer and leaves the others as they are. -/
def Obligations.HeldOffersAreNeverDropped : Prop :=
  ∀ s t : State, step s = .next t → t.port = s.port.tail

/-- The LAN key and the secrets are "observable only through `ENC`, `DEC`, `SIGN` results" (R23, R282): after every other instruction the
host reads the same from two states that differ in nothing else. -/
def Obligations.SecretsShowOnlyThroughCipherAndSign : Prop :=
  ∀ (i : Instr) (s₁ s₂ : State), (∀ p, i ≠ .enc p) → (∀ c, i ≠ .dec c) → (∀ p, i ≠ .sign p) → SameButSecrets s₁ s₂ →
    ∃ t₁ t₂, exec i s₁ = .next t₁ ∧ exec i s₂ = .next t₂ ∧ ∀ r : HostReg, hostRead t₁ r = hostRead t₂ r

/-- R230: the next value of `SESS` and the secrets for every command and session state, and the statuses the table names. -/
def Obligations.SessFollowsItsTransitionTable : Prop :=
  ∀ (i : Instr) (s t : State), SessionInv s → (∀ b ∈ bytesOperands i, Fits b) → exec i s = .next t →
    match i with
    | .setKey _ | .expire =>
      if s.sess = .derived ∨ s.sess = .active
      then t.sess = .expired ∧ t.kSign = none ∧ t.kApp = none ∧ t.ivApp = none ∧ t.kDev = none ∧ t.ivDev = none
      else t.sess = s.sess
    | .derive .. => if s.lanKey = none then s.sess = .uninit ∧ t.status = 0x22 ∧ t.sess = s.sess else t.sess = .derived
    | .enc p =>
      if s.sess = .uninit ∨ s.sess = .expired then t.status = 0x20 ∧ t.sess = s.sess
      else if p = [] then t.status = 0x02 ∧ t.sess = s.sess else t.sess = .active
    | .dec c =>
      if s.sess = .uninit ∨ s.sess = .expired then t.status = 0x20 ∧ t.sess = s.sess
      else if c.length = 0 ∨ c.length % 16 ≠ 0 then t.status = 0x21 ∧ t.sess = s.sess else t.sess = .active
    | .sign _ => t.sess = s.sess ∧ (s.sess = .uninit ∨ s.sess = .expired → t.status = 0x20)
    | .reset => AtReset t
    | _ => t.sess = s.sess

/-! ## Control and CRC commands -/

/-- R280: `NOP`, descriptor `00`, clears the results and changes no other state; `00 xx` is `BADCMD`. -/
def Obligations.NopClearsTheResults : Prop :=
  (∀ s : State, exec .nop s = .next (s.withResults 0x00 0x00 [] .none)) ∧
  decode [0x00] = .ok .nop ∧
  (∀ (s : State) (rest : List Offer) (x : Byte) (tail : Bytes), s.port = .descriptor (0x00 :: x :: tail) :: rest →
    step s = .next (State.withResults { s with port := rest } 0x01 0x00 [] .none))

/-- R103, R104, R105: the three CRC commands, each with its opcode byte and the spec's example. -/
def Obligations.CrcCommandsWriteRegisterAndResults : Prop :=
  (∀ (d : Bytes) (s : State), Fits d → exec (.crc16 d) s = .next (State.withResults { s with crc := crcUpdate 0x1D0F d } 0x00 0x00
      [hi8 (crcUpdate 0x1D0F d), lo8 (crcUpdate 0x1D0F d)] (.crc (crcUpdate 0x1D0F d)))) ∧
  (∀ s : State, exec .crcInit s = .next (State.withResults { s with crc := 0x1D0F } 0x00 0x00 [0x1D, 0x0F] (.crc 0x1D0F))) ∧
  (∀ (d : Bytes) (s : State), Fits d → exec (.crcUpd d) s = .next (State.withResults { s with crc := crcUpdate s.crc d } 0x00 0x00
      [hi8 (crcUpdate s.crc d), lo8 (crcUpdate s.crc d)] (.crc (crcUpdate s.crc d)))) ∧
  (∀ d : Bytes, (encode (.crc16 d)).head? = some 0x10 ∧ (encode .crcInit).head? = some 0x11 ∧ (encode (.crcUpd d)).head? = some 0x12) ∧
  (∀ r : Half, crcUpdate r [] = r) ∧
  crcUpdate 0x1D0F [0x31, 0x32, 0x33, 0x34, 0x35, 0x36, 0x37, 0x38, 0x39] = 0xE5CC ∧
  crcUpdate 0x1D0F [0x31, 0x32, 0x33, 0x34] = 0xD999 ∧
  crcUpdate 0xD999 [0x35, 0x36, 0x37, 0x38, 0x39] = 0xE5CC

/-- R106: `CRC_INIT; CRC_UPD A; CRC_UPD B` leaves the same `CRC`, `OBUF` and `RES` as `CRC16 (A ‖ B)`. -/
def Obligations.StreamedCrcEqualsOneShot : Prop :=
  ∀ (a b : Bytes) (s : State), Fits (a ++ b) → ∃ t₁ t₂ t₃ t,
    exec .crcInit s = .next t₁ ∧ exec (.crcUpd a) t₁ = .next t₂ ∧ exec (.crcUpd b) t₂ = .next t₃ ∧ exec (.crc16 (a ++ b)) s = .next t ∧
    t₃.crc = t.crc ∧ t₃.obuf = t.obuf ∧ t₃.res = t.res

/-- R102 law 2: the checksum over a string and its own two CRC bytes is zero. -/
def Obligations.CrcResidueIsZero : Prop :=
  ∀ b : Bytes, crcUpdate 0x1D0F (b ++ crc16 b) = 0x0000

/-- R102 laws 3 and 4: the bit-serial form and the table form give the register of R100, with the table entries the rule lists. -/
def Obligations.CrcBitSerialAndTableFormsAgree : Prop :=
  (∀ (r : Half) (b : Bytes), crcBitSerial r b = crcUpdate r b) ∧
  (∀ (r : Half) (b : Byte), crcStep r b = (r <<< 8) ^^^ crcTable ((r >>> 8).setWidth 8 ^^^ b)) ∧
  crcTable 0 = 0x0000 ∧ crcTable 1 = 0x1021 ∧ crcTable 2 = 0x2042 ∧ crcTable 3 = 0x3063 ∧ crcTable 255 = 0x1EF0

/-- R102 law 5: "any single-bit flip changes this CRC". -/
def Obligations.SingleBitFlipChangesTheCrc : Prop :=
  ∀ (b : Bytes) (i k : Nat) (r : Half), i < b.length → k < 8 → crcUpdate r (flipBit b i k) ≠ crcUpdate r b

/-! ## The TLV codec -/

/-- R112, R114, R117: the TLV commands, from any state, with the spec's examples under CFG-A and an empty name table. `FOUND` is by
`namedTag`, which counts an entry that breaks D35 as absent, the model's choice (notes/assumptions/6.md); the last clause is R117 itself, for
every table that D35 allows. -/
def Obligations.TlvCommandsDeliverTheCodec : Prop :=
  (∀ (d : Bytes) (s : State), Fits d → exec (.tlvDec d) s = .next (s.withResults 0x00 0x00 [] (.params (tlvDecode Config.tables d)))) ∧
  (∀ (m : ParamMap) (s : State), exec (.tlvEnc m) s = .next (s.withResults 0x00 0x00 (tlvEncode Config.tables m) .none)) ∧
  (∀ (t : Byte) (s : State), exec (.tlvName t) s = .next (s.withResults 0x00
      (if (namedTag Config.tables t).isSome then 0x20 else 0x00) ((namedTag Config.tables t).getD (fallbackName t)) .none)) ∧
  tlvDecode cfgA [0x01, 0x24, 0x01, 0x25, 0x02] = [(0x01, 0x25)] ∧
  tlvEncode cfgA [(0x01, 36), (0x02, 5), (0x1B, 4)] = [0x01, 0x24, 0x1B, 0x04, 0x02, 0x05] ∧
  tagName cfgA 0x1B = [0x30, 0x78, 0x31, 0x62] ∧
  (∀ (t : Byte) (s : State), exec (.tlvName t) s = .next (completeTlvName Config.tables t s)) ∧
  (∀ (c : TlvTables) (t : Byte) (s : State), NamesMeetD35 c → completeTlvName c t s = s.withResults 0x00
      (if (tableEntry c t).isSome then 0x20 else 0x00) ((tableEntry c t).getD (fallbackName t)) .none)

/-- R118: every byte string is a sequence of whole entries and a tail too short for one more; the entries are read in order, a later one
overwrites an earlier one, and the tail is dropped. -/
def Obligations.TlvDecodeReadsEntriesAndDropsATruncatedTail : Prop :=
  ∀ c : TlvTables,
    (∀ b : Bytes, ∃ (entries : List (Byte × Half)) (tail : Bytes), TooShortForAnEntry c tail ∧ b = entries.flatMap (entryBytes c) ++ tail) ∧
    ∀ (entries : List (Byte × Half)) (tail : Bytes), TooShortForAnEntry c tail →
      tlvDecode c (entries.flatMap (entryBytes c) ++ tail) =
        entries.foldl (fun (m : ParamMap) e => ParamMap.set m e.1 (maskedValue c e.1 e.2)) []

/-- R120: `tlv_decode(tlv_encode(m)) = m` for every mapping that fits, under any tables; in general each value comes back masked. -/
def Obligations.TlvRoundTrip : Prop :=
  (∀ (c : TlvTables) (m : ParamMap), m.Sorted → fitsTags c m = true → tlvDecode c (tlvEncode c m) = m) ∧
  ∀ (c : TlvTables) (m : ParamMap), m.Sorted → tlvDecode c (tlvEncode c m) = m.map fun e => (e.1, maskedValue c e.1 e.2)

/-- R121: the converse holds for the encoding of a mapping, and not in general. -/
def Obligations.TlvConverseHoldsForEncodingsOnly : Prop :=
  (∀ (c : TlvTables) (m : ParamMap), m.Sorted → tlvEncode c (tlvDecode c (tlvEncode c m)) = tlvEncode c m) ∧
  ∃ (c : TlvTables) (b : Bytes), tlvEncode c (tlvDecode c b) ≠ b

/-- R119: the canonical order holds every tag of the mapping exactly once; priority tags come first in list order, the rest ascend. -/
def Obligations.TlvOrderIsCanonical : Prop :=
  ∀ (c : TlvTables) (m : ParamMap), c.priority.Nodup → m.Sorted → ∃ first rest, tlvOrder c m = first ++ rest ∧
    (tlvOrder c m).Nodup ∧ (∀ t, t ∈ tlvOrder c m ↔ t ∈ m.map Prod.fst) ∧
    first.Sublist c.priority ∧ (∀ t ∈ rest, t ∉ c.priority) ∧ rest.Pairwise (fun a b => a < b)

/-- R113: the length of an encoding is the sum over the tags of `1 + width(t)`, at most 768; the empty mapping encodes to nothing. -/
def Obligations.TlvEncodingLength : Prop :=
  ∀ (c : TlvTables) (m : ParamMap), m.Sorted →
    (tlvEncode c m).length = (m.map fun e => if e.1 ∈ c.twoByteTags then 3 else 2).sum ∧ (tlvEncode c m).length ≤ 768 ∧ tlvEncode c [] = []

/-- R116 with D35: two tags never have the same name, so the named view merges nothing, for any table (entries that would break D35 count
as absent, the model's choice: notes/assumptions/6.md); in a table that D35 allows a tag with an entry renders as that entry; an unnamed tag
renders as `0x` and two lower-case digits. -/
def Obligations.TagNamesAreDistinct : Prop :=
  (∀ (c : TlvTables) (t u : Byte), tagName c t = tagName c u → t = u) ∧
  (∀ (c : TlvTables) (t : Byte) (n : Name), NamesMeetD35 c → tableEntry c t = some n → namedTag c t = some n ∧ tagName c t = n) ∧
  ∀ (c : TlvTables) (t : Byte), tableEntry c t = none → tagName c t =
    ([0x30, 0x78, if t >>> 4 < 10 then 0x30 + (t >>> 4) else 0x57 + (t >>> 4),
      if t &&& 15 < 10 then 0x30 + (t &&& 15) else 0x57 + (t &&& 15)] : Bytes)

/-! ## The frame decoders -/

/-- R132, R133: `MON_DEC` applies the four tests in order and reports the first that fails, with the raw length and nothing else. -/
def Obligations.MonitorTestsInOrder : Prop :=
  ∀ (f : Bytes) (s : State), Fits f →
    let failing (code : Byte) : Outcome := .next (s.withResults code 0x00 [] (.rawlen (BitVec.ofNat 16 f.length)))
    let len := (f.getD 1 0).toNat
    (f.length < 4 → exec (.monDec f) s = failing 0x10) ∧
    (4 ≤ f.length → (len < 3 ∨ f.length < len + 1) → exec (.monDec f) s = failing 0x11) ∧
    (4 ≤ f.length → 3 ≤ len → len + 1 ≤ f.length → crc16 (f.take (len - 1)) ≠ (f.drop (len - 1)).take 2 →
      exec (.monDec f) s = failing 0x12) ∧
    (4 ≤ f.length → 3 ≤ len → len + 1 ≤ f.length → crc16 (f.take (len - 1)) = (f.drop (len - 1)).take 2 → len ≠ 18 →
      exec (.monDec f) s = failing 0x13)

/-- R136, R138: the record, the extra bytes and the flags of every frame with length byte 18 and its own CRC, whatever its other bytes. -/
def Obligations.MonitorFrameDeliversItsRecord : Prop :=
  ∀ (f : MonitorFrame) (s : State), Fits (encode (.frameMonitor f)) →
    [hi8 f.crc, lo8 f.crc] = crc16 ((encode (.frameMonitor f)).take 17) →
    let record (ts : Option (Vector Byte 4)) : Res := .monitor
      { direction := f.direction, length := 18, requestId := f.requestId, answerRequired := f.answerRequired, accessory := f.accessory,
        switches := f.switches, alarms := #v[f.alarmsLo[0], f.alarmsLo[1], f.alarmsHi[0], f.alarmsHi[1]], status := f.status,
        action := f.action, progress := f.progress, rsv := f.rsv, crc := f.crc, timestamp := ts,
        rawlen := BitVec.ofNat 16 (19 + f.trailing.length) }
    (f.trailing.length < 4 →
      exec (.monDec (encode (.frameMonitor f))) s = .next (s.withResults 0x00 0x03 f.trailing (record none))) ∧
    (∀ z₀ z₁ z₂ z₃ extra, f.trailing = z₀ :: z₁ :: z₂ :: z₃ :: extra →
      exec (.monDec (encode (.frameMonitor f))) s = .next (s.withResults 0x00 0x0B extra (record (some #v[z₀, z₁, z₂, z₃]))))

/-- R150 (c): `MON_DEC` of a well-formed 19-byte monitor frame with any single bit flipped never succeeds; a flip anywhere but in the length
byte raises `PARSE_CRC`. -/
def Obligations.MonitorFrameWithAFlippedBitNeverDecodes : Prop :=
  ∀ (f : Bytes) (i k : Nat) (s : State), f.length = 19 → monitorCheck f = none → i < 19 → k < 8 →
    ∃ t, exec (.monDec (flipBit f i k)) s = .next t ∧ t.status ≠ 0x00 ∧ (i ≠ 1 → t.status = 0x12)

/-- R142, R144: a profile-scoped and a default recipe frame, whatever their length byte and CRC, and every other frame. -/
def Obligations.RecipeFramesDecodeLeniently : Prop :=
  (∀ (len prof bev : Byte) (tlv : Bytes) (crc : Half) (s : State), tlv.length + 8 ≤ Config.maxOperand →
    exec (.rcpDec ([0xD0, len, 0xA6, 0xF0, prof, bev] ++ tlv ++ [hi8 crc, lo8 crc])) s = .next (s.withResults 0x00
      ((if crcReg ([0xD0, len, 0xA6, 0xF0, prof, bev] ++ tlv) = crc then 0x01 else 0x00) |||
        (if len.toNat = tlv.length + 7 then 0x02 else 0x00) ||| 0x10) []
      (.recipe { format := .profile, cmd := some 0xA6F0, declaredLen := some len, profile := some prof, bevId := some bev,
                 params := some (tlvDecode Config.tables tlv) }))) ∧
  (∀ (len bev : Byte) (tlv : Bytes) (crc : Half) (s : State), tlv.length + 7 ≤ Config.maxOperand →
    exec (.rcpDec ([0xD0, len, 0xB0, 0xF0, bev] ++ tlv ++ [hi8 crc, lo8 crc])) s = .next (s.withResults 0x00
      ((if crcReg ([0xD0, len, 0xB0, 0xF0, bev] ++ tlv) = crc then 0x01 else 0x00) |||
        (if len.toNat = tlv.length + 6 then 0x02 else 0x00)) []
      (.recipe { format := .default, cmd := some 0xB0F0, declaredLen := some len, profile := none, bevId := some bev,
                 params := some (tlvDecode Config.tables tlv) }))) ∧
  (∀ (f : Bytes) (s : State), Fits f →
    (¬ ∃ len prof bev tlv c₁ c₀, f = [0xD0, len, 0xA6, 0xF0, prof, bev] ++ tlv ++ [c₁, c₀]) →
    (¬ ∃ len bev tlv c₁ c₀, f = [0xD0, len, 0xB0, 0xF0, bev] ++ tlv ++ [c₁, c₀]) →
    exec (.rcpDec f) s = .next (s.withResults 0x00 0x00 (hexEncode f)
      (.recipe { format := .unknown, cmd := none, declaredLen := none, profile := none, bevId := none, params := none })))

/-- R145, R147, R148: a D0 frame of at least 6 bytes, whatever its opcode, length byte and CRC, and every other frame. -/
def Obligations.PropertyFramesDecodeLeniently : Prop :=
  (∀ (len : Byte) (opcode : Half) (payload : Bytes) (crc : Half) (s : State), payload.length + 6 ≤ Config.maxOperand →
    exec (.propDec ([0xD0, len, hi8 opcode, lo8 opcode] ++ payload ++ [hi8 crc, lo8 crc])) s = .next (s.withResults 0x00
      ((if crcReg ([0xD0, len, hi8 opcode, lo8 opcode] ++ payload) = crc then 0x01 else 0x00) |||
        (if len.toNat = payload.length + 5 then 0x02 else 0x00)) payload
      (.property { kind := .frame, opcode := some opcode, declaredLen := some len }))) ∧
  (∀ (f : Bytes) (s : State), Fits f → (f.length < 6 ∨ f.head? ≠ some 0xD0) →
    exec (.propDec f) s = .next (s.withResults 0x00 0x00 [] (.property { kind := .none, opcode := none, declaredLen := none })))

/-- R141, R146, R150 (b): a lenient frame with any single bit flipped still completes with `STATUS = 0x00` and never reports
`CRC_OK`. -/
def Obligations.LenientFrameWithAFlippedBitReportsBadCrc : Prop :=
  ∀ (f : Bytes) (i k : Nat) (s : State), Fits f → 2 ≤ f.length → crcOk f f.length = true → i < f.length → k < 8 →
    (∃ t, exec (.rcpDec (flipBit f i k)) s = .next t ∧ t.status = 0x00 ∧ flagSet t.flags .crcOk = false) ∧
    (∃ t, exec (.propDec (flipBit f i k)) s = .next t ∧ t.status = 0x00 ∧ flagSet t.flags .crcOk = false)

/-! ## The frame builder -/

/-- R161, R162, R163: `BREW` delivers the frame of R67 with its length byte `lo8(T + 7)`, its CRC and `LEN_OVF`, for any operands. -/
def Obligations.BrewBuildsItsFrame : Prop :=
  (∀ (bev trig : Byte) (m : ParamMap) (s : State),
    let tlv := tlvEncode Config.tables m
    let pre : Bytes := [0x0D, lo8 (BitVec.ofNat 16 (tlv.length + 7)), 0x83, 0xF0, bev, trig] ++ tlv
    exec (.brew bev trig m) s = .next (s.withResults 0x00 (if 255 < tlv.length + 7 then 0x04 else 0x00)
      (pre ++ [hi8 (crcReg pre), lo8 (crcReg pre)]) .none)) ∧
  (∀ (c : TlvTables) (bev trig : Byte) (m : ParamMap), m.Sorted → (brewFrame bev trig (tlvEncode c m)).length ≤ 776 ∧
    (brewFrame bev trig (tlvEncode c m)).length = (tlvEncode c m).length + 8 ∧ crcReg (brewFrame bev trig (tlvEncode c m)) = 0x0000) ∧
  (encode (.brew 0 0 [])).head? = some 0x40 ∧
  brewFrame 0x01 0x01 (tlvEncode cfgA [(0x01, 36), (0x02, 5), (0x1B, 4)]) =
    [0x0D, 0x0D, 0x83, 0xF0, 0x01, 0x01, 0x01, 0x24, 0x1B, 0x04, 0x02, 0x05, 0x02, 0x6E]

/-- R150 (a): what the decoders say of a frame that `BREW` builds: `unknown`, `none`, and, when `LEN_OVF = 0`, `PARSE_CONTENTS` unless the
length byte is 18, in which case it decodes as a monitor record. -/
def Obligations.DecodersOnABrewFrame : Prop :=
  ∀ (c : TlvTables) (bev trig : Byte) (m : ParamMap), m.Sorted →
    let f := brewFrame bev trig (tlvEncode c m)
    recipeFormat f = .unknown ∧
    (∀ s : State, exec (.propDec f) s = .next (s.withResults 0x00 0x00 [] (.property { kind := .none, opcode := none, declaredLen := none }))) ∧
    ((tlvEncode c m).length + 7 ≤ 255 → (tlvEncode c m).length + 7 ≠ 18 → monitorCheck f = some .parseContents) ∧
    ((tlvEncode c m).length + 7 = 18 → monitorCheck f = none)

/-- R164: the stop command, for any tables: byte 4 is the beverage, byte 5 is `0x02`, the last two bytes are the checksum of the rest; its
frames under CFG-A and CFG-B. -/
def Obligations.StopCommandFrame : Prop :=
  (∀ (c : TlvTables) (bev : Byte) (s : State), ∃ pre, (buildBrew c bev 0x02 [(0x0F, 250), (0x1B, 1)] s).obuf = pre ++ crc16 pre ∧
    pre[0]? = some 0x0D ∧ pre[4]? = some bev ∧ pre[5]? = some 0x02) ∧
  (∀ s : State, exec stopCommand s = .next (buildBrew Config.tables 0x10 0x02 [(0x0F, 250), (0x1B, 1)] s)) ∧
  encode stopCommand = [0x40, 0x10, 0x02, 0x00, 0x02, 0x0F, 0x00, 0xFA, 0x1B, 0x00, 0x01] ∧
  (buildBrew cfgA 0x10 0x02 [(0x0F, 250), (0x1B, 1)] State.reset).obuf =
    [0x0D, 0x0B, 0x83, 0xF0, 0x10, 0x02, 0x1B, 0x01, 0x0F, 0xFA, 0x20, 0xF1] ∧
  (buildBrew cfgB 0x10 0x02 [(0x0F, 250), (0x1B, 1)] State.reset).obuf =
    [0x0D, 0x0C, 0x83, 0xF0, 0x10, 0x02, 0x1B, 0x01, 0x0F, 0x00, 0xFA, 0x7B, 0xC7]

/-! ## Keys and session -/

/-- R188, R190: `SETKEY` and `EXPIRE` in every session state: a live session ends with all secrets none, any other stays as it is. -/
def Obligations.SetKeyAndExpireEndALiveSession : Prop :=
  (∀ (k : Bytes) (s : State), Fits k → (s.sess = .derived ∨ s.sess = .active) →
    exec (.setKey k) s = .next (State.withResults
      (State.withSession { s with lanKey := some k } .expired none none none none none) 0x00 0x00 [] .none)) ∧
  (∀ (k : Bytes) (s : State), Fits k → (s.sess = .uninit ∨ s.sess = .expired) →
    exec (.setKey k) s = .next (State.withResults { s with lanKey := some k } 0x00 0x00 [] .none)) ∧
  (∀ s : State, (s.sess = .derived ∨ s.sess = .active) →
    exec .expire s = .next (State.withResults (s.withSession .expired none none none none none) 0x00 0x00 [] .none)) ∧
  (∀ s : State, (s.sess = .uninit ∨ s.sess = .expired) → exec .expire s = .next (s.withResults 0x00 0x00 [] .none)) ∧
  (encode (.setKey [])).head? = some 0x50 ∧ encode .expire = [0x52] ∧
  (∀ (k : Bytes) (t : State), Fits k → exec (.setKey k) State.reset = .next t → sstat t = 0x80) ∧
  (∀ s t : State, s.sess = .active → s.lanKey ≠ none → exec .expire s = .next t → sstat t = 0x83)

/-- R184, R185, R186, R189: `DERIVE` writes the five secrets by the nested HMAC over the nonces in app and in device order, in every session
state, and without a LAN key raises `NO_LANKEY` and writes nothing. -/
def Obligations.DeriveInstallsTheFiveSecrets : Prop :=
  (∀ (k ar dr atm dtm : Bytes) (s : State), Fits ar → Fits dr → Fits atm → Fits dtm → s.lanKey = some k →
    let secret (m : Bytes) : Bytes := hmac k (hmac k m ++ m)
    let app (d : Byte) : Bytes := ar ++ dr ++ atm ++ dtm ++ [d]
    let dev (d : Byte) : Bytes := dr ++ ar ++ dtm ++ atm ++ [d]
    exec (.derive ar dr atm dtm) s = .next (State.withResults
      (s.withSession .derived (some (secret (app 0x30))) (some (secret (app 0x31))) (some ((secret (app 0x32)).take 16))
        (some (secret (dev 0x31))) (some ((secret (dev 0x32)).take 16))) 0x00 0x00 [] .none)) ∧
  (∀ (ar dr atm dtm : Bytes) (s : State), Fits ar → Fits dr → Fits atm → Fits dtm → s.lanKey = none →
    exec (.derive ar dr atm dtm) s = .next (s.withResults 0x22 0x00 [] .none))

/-- R223: `ENC` in every session state: `NEEDS_REKEY` first, then `OPERAND` for an empty plaintext, else the ciphertext, a whole number of
blocks, with `IV_APP` at its last 16 bytes and `SESS = ACTIVE`. -/
def Obligations.EncEncryptsAndRotatesTheAppIv : Prop :=
  (∀ (p : Bytes) (s : State), Fits p → (s.sess = .uninit ∨ s.sess = .expired) →
    exec (.enc p) s = .next (s.withResults 0x20 0x00 [] .none)) ∧
  (∀ s : State, (s.sess = .derived ∨ s.sess = .active) → exec (.enc []) s = .next (s.withResults 0x02 0x00 [] .none)) ∧
  (∀ (p k v : Bytes) (s : State), Fits p → p ≠ [] → (s.sess = .derived ∨ s.sess = .active) → s.kApp = some k → s.ivApp = some v →
    let c := cbcEncrypt k v (p ++ List.replicate ((16 - p.length % 16) % 16) 0)
    exec (.enc p) s = .next (State.withResults { s with ivApp := some (c.drop (c.length - 16)), sess := .active } 0x00 0x00 c .none) ∧
    c.length = 16 * ((p.length + 15) / 16) ∧ (c.drop (c.length - 16)).length = 16)

/-- R224, R225: `DEC` in every session state: `NEEDS_REKEY` first, then `AUTH_FAIL` for a bad length with nothing changed, else the text cut
at its first zero byte, `IV_DEV` at the last 16 ciphertext bytes and `SESS = ACTIVE`. -/
def Obligations.DecDecryptsAndRotatesTheDeviceIv : Prop :=
  (∀ (c : Bytes) (s : State), Fits c → (s.sess = .uninit ∨ s.sess = .expired) →
    exec (.dec c) s = .next (s.withResults 0x20 0x00 [] .none)) ∧
  (∀ (c : Bytes) (s : State), Fits c → (s.sess = .derived ∨ s.sess = .active) → (c.length = 0 ∨ c.length % 16 ≠ 0) →
    exec (.dec c) s = .next (s.withResults 0x21 0x00 [] .none)) ∧
  (∀ (c k v : Bytes) (s : State), Fits c → (s.sess = .derived ∨ s.sess = .active) → c.length ≠ 0 → c.length % 16 = 0 →
    s.kDev = some k → s.ivDev = some v → ∃ p, exec (.dec c) s =
      .next (State.withResults { s with ivDev := some (c.drop (c.length - 16)), sess := .active } 0x00 0x00 p .none) ∧
      0 ∉ p ∧ p <+: cbcDecrypt k v c ∧ (p = cbcDecrypt k v c ∨ (cbcDecrypt k v c)[p.length]? = some 0))

/-- R227: `SIGN` delivers the 32-byte HMAC of the plaintext as given and changes only the results; `NEEDS_REKEY` without secrets. -/
def Obligations.SignDeliversTheHmac : Prop :=
  (∀ (p : Bytes) (s : State), Fits p → (s.sess = .uninit ∨ s.sess = .expired) →
    exec (.sign p) s = .next (s.withResults 0x20 0x00 [] .none)) ∧
  (∀ (p k : Bytes) (s : State), Fits p → (s.sess = .derived ∨ s.sess = .active) → s.kSign = some k →
    exec (.sign p) s = .next (s.withResults 0x00 0x00 (hmac k p) .none) ∧ (hmac k p).length = 32)

/-! ## Hash, cipher and messages -/

/-- R174, R183: SHA-256 and HMAC always give exactly 32 bytes, and the padded message is a whole number of 64-byte blocks (R172). -/
def Obligations.HashesAre32Bytes : Prop :=
  (∀ m : Bytes, (sha256 m).length = 32) ∧ (∀ k m : Bytes, (hmac k m).length = 32) ∧
  (∀ m : Bytes, (shaPad m).length % 64 = 0 ∧ m <+: shaPad m) ∧ (∀ k : Bytes, (hmacKey k).length = 64)

/-- The published values the spec gives: SHA-256 of `abc` (R174), the first AES-256 block (R210). -/
def Obligations.HashAndCipherCheckValues : Prop :=
  sha256 [0x61, 0x62, 0x63] =
    [0xba, 0x78, 0x16, 0xbf, 0x8f, 0x01, 0xcf, 0xea, 0x41, 0x41, 0x40, 0xde, 0x5d, 0xae, 0x22, 0x23,
     0xb0, 0x03, 0x61, 0xa3, 0x96, 0x17, 0x7a, 0x9c, 0xb4, 0x10, 0xff, 0x61, 0xf2, 0x00, 0x15, 0xad] ∧
  aesEnc ((List.range 32).map (BitVec.ofNat 8))
    [0x00, 0x11, 0x22, 0x33, 0x44, 0x55, 0x66, 0x77, 0x88, 0x99, 0xaa, 0xbb, 0xcc, 0xdd, 0xee, 0xff] =
    [0x8e, 0xa2, 0xb7, 0xca, 0x51, 0x67, 0x45, 0xbf, 0xea, 0xfc, 0x49, 0x90, 0x4b, 0x49, 0x60, 0x89]

/-- R209: "`aes_dec(key, aes_enc(key, X)) = X` for every key and block". -/
def Obligations.AesDecryptInvertsEncrypt : Prop :=
  ∀ key x : Bytes, key.length = 32 → x.length = 16 → aesDec key (aesEnc key x) = x

/-- R232: the message round trip, and both calls give the same next IV; in general the text comes back cut at its first zero byte. -/
def Obligations.MessageRoundTrip : Prop :=
  ∀ k v p : Bytes, k.length = 32 → v.length = 16 → p ≠ [] →
    (msgDecrypt k v (msgEncrypt k v p).1).2 = (msgEncrypt k v p).2 ∧
    ((0 : Byte) ∉ p → (msgDecrypt k v (msgEncrypt k v p).1).1 = p) ∧
    (∀ z, p[z]? = some 0 → (∀ j < z, p[j]? ≠ some 0) → (msgDecrypt k v (msgEncrypt k v p).1).1 = p.take z)

/-- R305 (d): "a message decrypted with the right key and a wrong IV has its first 16 plaintext bytes wrong and the rest right", and the next
IV does not depend on the IV. -/
def Obligations.WrongIvSpoilsOnlyTheFirstBlock : Prop :=
  ∀ k v w c : Bytes, k.length = 32 → v.length = 16 → w.length = 16 → v ≠ w → c.length ≠ 0 → c.length % 16 = 0 →
    (cbcDecrypt k v c).drop 16 = (cbcDecrypt k w c).drop 16 ∧ (cbcDecrypt k v c).take 16 ≠ (cbcDecrypt k w c).take 16 ∧
    (msgDecrypt k v c).2 = (msgDecrypt k w c).2

/-! ## Text forms -/

/-- R242, R244, R246, R247: the text commands from any state: the encoders always deliver, the decoders deliver or raise; and what the encoders
deliver: two lower-case digits a byte, high nibble first, and four characters of the alphabet for three bytes, the last group padded; with
the spec's examples. -/
def Obligations.TextCommandsDeliverOrRaise : Prop :=
  (∀ (d : Bytes) (s : State), Fits d → exec (.b64e d) s = .next (s.withResults 0x00 0x00 (b64Encode d) .none) ∧
    (b64Encode d).length = 4 * ((d.length + 2) / 3)) ∧
  (∀ (d : Bytes) (s : State), Fits d → exec (.hexe d) s = .next (s.withResults 0x00 0x00 (hexEncode d) .none) ∧
    (hexEncode d).length = 2 * d.length) ∧
  (∀ (x b : Bytes) (s : State), Fits x → b64Decode x = some b → exec (.b64d x) s = .next (s.withResults 0x00 0x00 b .none)) ∧
  (∀ (x b : Bytes) (s : State), Fits x → hexDecode x = some b → exec (.hexd x) s = .next (s.withResults 0x00 0x00 b .none)) ∧
  (∀ (x : Bytes) (s : State), Fits x → b64Decode x = none → exec (.b64d x) s = .next (s.withResults 0x30 0x00 [] .none)) ∧
  (∀ (x : Bytes) (s : State), Fits x → hexDecode x = none → exec (.hexd x) s = .next (s.withResults 0x31 0x00 [] .none)) ∧
  (∀ d : Bytes, hexEncode d = d.flatMap fun b => [hexDigits.getD (b.toNat / 16) 0, hexDigits.getD (b.toNat % 16) 0]) ∧
  (∀ (x y z : Byte) (rest : Bytes), b64Encode (x :: y :: z :: rest) = b64Group x y z ++ b64Encode rest) ∧
  (∀ x y : Byte, b64Encode [x, y] = (b64Group x y 0).take 3 ++ [0x3D] ∧ b64Encode [x] = (b64Group x 0 0).take 2 ++ [0x3D, 0x3D]) ∧
  b64Encode [] = [] ∧
  hexEncode [0x0D, 0x05, 0x75, 0x0F, 0xDA, 0x25] = [0x30, 0x64, 0x30, 0x35, 0x37, 0x35, 0x30, 0x66, 0x64, 0x61, 0x32, 0x35] ∧
  b64Encode [0x66, 0x6F, 0x6F, 0x62] = [0x5A, 0x6D, 0x39, 0x76, 0x59, 0x67, 0x3D, 0x3D] ∧
  b64Encode [0xFB, 0xFF, 0xFE] = [0x2B, 0x2F, 0x2F, 0x2B]

/-- R244, R245: decoding an encoding gives the bytes back, in base64 and in hex of either case. -/
def Obligations.TextRoundTrips : Prop :=
  (∀ b : Bytes, b64Decode (b64Encode b) = some b) ∧ (∀ b : Bytes, hexDecode (hexEncode b) = some b) ∧
  ∀ b : Bytes, hexDecode ((hexEncode b).map fun c => if 0x61 ≤ c then c - 0x20 else c) = some b

/-- R243, R245: exactly which texts are malformed, by the alphabet and the digits written out, and the bytes every other text decodes to; the
unused low bits of a padded group are ignored. -/
def Obligations.MalformedTextsExactly : Prop :=
  (∀ x : Bytes, (b64Decode x).isSome = true ↔ x.length % 4 = 0 ∧ ∃ body pad, x = body ++ pad ∧ (∀ c ∈ body, c ∈ b64Alphabet) ∧
    (pad = [] ∨ pad = [0x3D] ∨ pad = [0x3D, 0x3D])) ∧
  (∀ p q r s : Nat, p < 64 → q < 64 → r < 64 → s < 64 →
    (∀ rest out : Bytes, b64Decode rest = some out →
      b64Decode ([b64Digit p, b64Digit q, b64Digit r, b64Digit s] ++ rest) = some (b64GroupBytes p q r s ++ out)) ∧
    b64Decode [b64Digit p, b64Digit q, b64Digit r, 0x3D] = some ((b64GroupBytes p q r 0).take 2) ∧
    b64Decode [b64Digit p, b64Digit q, 0x3D, 0x3D] = some ((b64GroupBytes p q 0 0).take 1)) ∧
  b64Decode [] = some [] ∧
  (∀ x : Bytes, (hexDecode x).isSome = true ↔ x.length % 2 = 0 ∧ ∀ c ∈ x, c ∈ hexDigits ∨ c ∈ hexDigitsUpper) ∧
  (∀ x out : Bytes, hexDecode x = some out → 2 * out.length = x.length ∧ ∀ i, i < out.length →
    (out.getD i 0).toNat = 16 * hexDigitValue (x.getD (2 * i) 0) + hexDigitValue (x.getD (2 * i + 1) 0)) ∧
  hexDecode [] = some []

/-! ## What the host reads, and the monitor view -/

/-- R20: the bits of `SSTAT`. -/
def Obligations.SstatIsAFunctionOfSessAndLanKey : Prop :=
  ∀ s : State, sstat s &&& 0x03 = (match s.sess with | .uninit => 0 | .derived => 1 | .active => 2 | .expired => 3) ∧
    ((sstat s).getLsbD 7 = true ↔ s.lanKey ≠ none) ∧ ((sstat s).getLsbD 6 = true ↔ s.sess = .derived ∨ s.sess = .active) ∧
    sstat s &&& 0x3C = 0 ∧ sstat State.reset = 0x00

/-- R41: a host read of `OBUF[i]` gives byte `i` below `OLEN` and faults at or beyond it; every register read answers. -/
def Obligations.HostReadsOfTheBuffer : Prop :=
  ∀ s : State, (∀ i, i < olen s → ∃ b, s.obuf[i]? = some b ∧ hostRead s (.obuf i) = .ok (.byte b)) ∧
    (∀ i, olen s ≤ i → hostRead s (.obuf i) = .error (.obufIndex i)) ∧
    hostRead s .status = .ok (.byte s.status) ∧ hostRead s .flags = .ok (.byte s.flags) ∧ hostRead s .sstat = .ok (.byte (sstat s)) ∧
    hostRead s .crc = .ok (.half s.crc) ∧ hostRead s .olen = .ok (.count (olen s))

/-- R21, with the fields of R136, R142 and R147: after every command the host reads exactly the fields of its row of the table, with their
values, and every other field faults; after an error none, after a monitor parse status `rawlen` alone. The form in which the host reads a
map is the model's choice: the mapping is a list of entries with rising tags (notes/assumptions/22.md), and the named view of R116 lists
its entries in that order (notes/assumptions/16.md), by the names of `tagName`, which counts an entry of the table that breaks D35 as absent
(notes/assumptions/6.md). So is that the wire rows, which the third clause covers with the commands, are executed (notes/assumptions/3.md). -/
def Obligations.ResHoldsOnlyTheLastCommandsFields : Prop :=
  ResReads State.reset [] ∧
  (∀ (i : Instr) (s t : State), exec i s = .next t → t.status = 0x00 →
      (i = .crcInit ∨ (∃ d, i = .crc16 d) ∨ ∃ d, i = .crcUpd d) → ResReads t [(.crc, .half t.crc)]) ∧
  (∀ (i : Instr) (s t : State), exec i s = .next t → (i = .nop ∨ i = .reset ∨ i = .expire ∨ (∃ m, i = .tlvEnc m) ∨ (∃ x, i = .tlvName x) ∨
      (∃ b x m, i = .brew b x m) ∨ (∃ k, i = .setKey k) ∨ (∃ a b c d, i = .derive a b c d) ∨ (∃ p, i = .enc p) ∨ (∃ c, i = .dec c) ∨
      (∃ p, i = .sign p) ∨ (∃ d, i = .b64e d) ∨ (∃ d, i = .b64d d) ∨ (∃ d, i = .hexe d) ∨ ∃ d, i = .hexd d) → ResReads t []) ∧
  (∀ (i : Instr) (s t : State), exec i s = .next t → t.status ∉ [0x00, 0x10, 0x11, 0x12, 0x13] → ResReads t []) ∧
  (∀ (d : Bytes) (s : State), Fits d → ∃ t, exec (.tlvDec d) s = .next t ∧ ResReads t [(.params, .params (tlvDecode Config.tables d))]) ∧
  (∀ (f : Bytes) (s : State), Fits f → 19 ≤ f.length → f.getD 1 0 = 18 → crc16 (f.take 17) = (f.drop 17).take 2 →
    let b (i : Nat) : Byte := f.getD i 0
    ∃ t, exec (.monDec f) s = .next t ∧ ResReads t
      ([(.direction, .byte (b 0)), (.length, .byte 18), (.requestId, .byte (b 2)), (.answerRequired, .byte (b 3)),
        (.accessory, .byte (b 4)), (.switches, .bytes [b 5, b 6]), (.alarms, .bytes [b 7, b 8, b 12, b 13]), (.status, .byte (b 9)),
        (.action, .byte (b 10)), (.progress, .byte (b 11)), (.rsv, .bytes [b 14, b 15, b 16]), (.crc, .half (be16 (b 17) (b 18))),
        (.rawlen, .half (BitVec.ofNat 16 f.length))] ++
        (if 23 ≤ f.length then [(.timestamp, .bytes [b 19, b 20, b 21, b 22])] else []))) ∧
  (∀ (f : Bytes) (s t : State), exec (.monDec f) s = .next t → t.status ∈ [0x10, 0x11, 0x12, 0x13] →
    ResReads t [(.rawlen, .half (BitVec.ofNat 16 f.length))]) ∧
  (∀ (len prof bev : Byte) (tlv : Bytes) (c₁ c₀ : Byte) (s : State), tlv.length + 8 ≤ Config.maxOperand →
    ∃ t, exec (.rcpDec ([0xD0, len, 0xA6, 0xF0, prof, bev] ++ tlv ++ [c₁, c₀])) s = .next t ∧ ResReads t
      [(.format, .byte 1), (.cmd, .half 0xA6F0), (.declaredLen, .byte len), (.profile, .byte prof), (.bevId, .byte bev),
        (.params, .params (tlvDecode Config.tables tlv)),
        (.namedView, .names ((tlvDecode Config.tables tlv).map fun e => (tagName Config.tables e.1, e.2)))]) ∧
  (∀ (len bev : Byte) (tlv : Bytes) (c₁ c₀ : Byte) (s : State), tlv.length + 7 ≤ Config.maxOperand →
    ∃ t, exec (.rcpDec ([0xD0, len, 0xB0, 0xF0, bev] ++ tlv ++ [c₁, c₀])) s = .next t ∧ ResReads t
      [(.format, .byte 2), (.cmd, .half 0xB0F0), (.declaredLen, .byte len), (.bevId, .byte bev),
        (.params, .params (tlvDecode Config.tables tlv)),
        (.namedView, .names ((tlvDecode Config.tables tlv).map fun e => (tagName Config.tables e.1, e.2)))]) ∧
  (∀ (f : Bytes) (s : State), Fits f → ¬ IsProfileFrame f → ¬ IsDefaultFrame f →
    ∃ t, exec (.rcpDec f) s = .next t ∧ ResReads t [(.format, .byte 0)]) ∧
  (∀ (len o₁ o₀ : Byte) (payload : Bytes) (c₁ c₀ : Byte) (s : State), payload.length + 6 ≤ Config.maxOperand →
    ∃ t, exec (.propDec ([0xD0, len, o₁, o₀] ++ payload ++ [c₁, c₀])) s = .next t ∧
      ResReads t [(.kind, .byte 1), (.opcode, .half (be16 o₁ o₀)), (.declaredLen, .byte len)]) ∧
  (∀ (f : Bytes) (s : State), Fits f → (f.length < 6 ∨ f.head? ≠ some 0xD0) →
    ∃ t, exec (.propDec f) s = .next t ∧ ResReads t [(.kind, .byte 0)])

/-- R261: the laws of the monitor view, for every profile and every record. R254: a profile is accepted exactly when no name is both a flag
and a predicate, whatever its byte and bit indexes and the flags its predicates name; an accepted profile is taken as given; with a rejected
one or none every name is `not_found` (R302), by empty tables. R255 to R260: the values on a record. That the block's lookup uses the record
`RES` holds, and that a rejected profile leaves empty tables, are the model's choices (notes/assumptions/12.md). -/
def Obligations.MonitorViewLaws : Prop :=
  (∀ (p : MonitorProfile) (f : CodeField) (n : Name), viewCode none f = none ∧ viewFlag p none n = none ∧ viewPredicate p none n = none ∧
    viewEnum p none f = none) ∧
  (∀ (p : MonitorProfile) (r : MonitorRecord) (f : CodeField) (v : Byte) (vs : List Byte),
    (∃ b, evalPredicate p (some r) (.equals f v) = some b ∧ evalPredicate p (some r) (.notEquals f v) = some (!b)) ∧
    (∃ b, evalPredicate p (some r) (.inSet f vs) = some b ∧ evalPredicate p (some r) (.notInSet f vs) = some (!b))) ∧
  (∀ (p : MonitorProfile) (fr : Option MonitorRecord) (n : Name) (src : BitSource) (y k : Nat),
    evalPredicate p fr (.flagFalse n) = (evalPredicate p fr (.flagTrue n)).map (!·) ∧
    evalPredicate p fr (.bitClear src y k) = (evalPredicate p fr (.bitSet src y k)).map (!·)) ∧
  (∀ (p : MonitorProfile) (fr : Option MonitorRecord) (n : Name) (src : BitSource) (y k : Nat),
    (p.flags.lookup n = some ⟨src, y, k, false⟩ → viewFlag p fr n = evalPredicate p fr (.bitSet src y k)) ∧
    (p.flags.lookup n = some ⟨src, y, k, true⟩ → viewFlag p fr n = evalPredicate p fr (.bitClear src y k))) ∧
  (∀ (fr : Option MonitorRecord) (y k : Nat), (1 < y → viewBit fr .switches y k = none) ∧ (3 < y → viewBit fr .alarms y k = none) ∧
    (7 < k → viewBit fr .switches y k = none ∧ viewBit fr .alarms y k = none)) ∧
  (∀ (p : MonitorProfile) (r : MonitorRecord) (n : Name) (g : CodeField) (q : Predicate) (d l a b : Byte) (rsv : Vector Byte 3) (c k : Half)
      (ts : Option (Vector Byte 4)),
    let r' := { r with direction := d, length := l, requestId := a, answerRequired := b, rsv := rsv, crc := c, timestamp := ts, rawlen := k }
    viewLookup p (some r') n = viewLookup p (some r) n ∧ viewEnum p (some r') g = viewEnum p (some r) g ∧
      viewCode (some r') g = viewCode (some r) g ∧ evalPredicate p (some r') q = evalPredicate p (some r) q) ∧
  (∀ p : MonitorProfile, profileAccepted p = true ↔ ∀ n, n ∈ p.flags.map Prod.fst → n ∉ p.predicates.map Prod.fst) ∧
  (∀ p : MonitorProfile, profileAccepted p = true → loadProfile (some p) = p) ∧
  (∀ (o : Option MonitorProfile) (fr : Option MonitorRecord) (n : Name), (∀ p, o = some p → profileAccepted p = false) →
    viewLookup (loadProfile o) fr n = .notFound) ∧
  (∀ (s : State) (n : Name), lookupNow s n =
    viewLookup (loadProfile Config.monitorProfile) (match s.res with | .monitor r => some r | _ => none) n) ∧
  (∀ (p : MonitorProfile) (fr : Option MonitorRecord) (n : Name), p.flags.lookup n = none →
    evalPredicate p fr (.flagTrue n) = none ∧ evalPredicate p fr (.flagFalse n) = none) ∧
  (∀ r : MonitorRecord, viewCode (some r) .status = some r.status ∧ viewCode (some r) .action = some r.action ∧
    viewCode (some r) .progress = some r.progress ∧ viewCode (some r) .accessory = some r.accessory ∧
    (∀ (y : Fin 2) (k : Nat), k ≤ 7 → viewBit (some r) .switches y k = some (r.switches[y].getLsbD k)) ∧
    ∀ (y : Fin 4) (k : Nat), k ≤ 7 → viewBit (some r) .alarms y k = some (r.alarms[y].getLsbD k)) ∧
  (∀ (p : MonitorProfile) (fr : Option MonitorRecord) (f : CodeField) (c : Byte), viewCode fr f = some c →
    (∀ n, p.enums.lookup (f, c) = some n → viewEnum p fr f = some n) ∧
    (p.enums.lookup (f, c) = none → viewEnum p fr f = some ((Nat.toDigits 10 c.toNat).map fun d => BitVec.ofNat 8 d.toNat)) ∧
    (∀ v, evalPredicate p fr (.equals f v) = some (decide (c = v))) ∧ ∀ vs, evalPredicate p fr (.inSet f vs) = some (decide (c ∈ vs))) ∧
  (∀ (p : MonitorProfile) (fr : Option MonitorRecord) (n : Name) (src : BitSource) (y k : Nat),
    evalPredicate p fr (.flagTrue n) = viewFlag p fr n ∧ evalPredicate p fr (.bitSet src y k) = viewBit fr src y k) ∧
  (∀ (p : MonitorProfile) (fr : Option MonitorRecord) (n : Name),
    (p.flags.lookup n ≠ none → viewLookup p fr n = .flag (viewFlag p fr n)) ∧
    (∀ d, p.flags.lookup n = none → p.predicates.lookup n = some d →
      viewLookup p fr n = .predicate (evalPredicate p fr d) ∧ viewPredicate p fr n = evalPredicate p fr d) ∧
    (p.flags.lookup n = none → p.predicates.lookup n = none → viewLookup p fr n = .notFound))

/-! ## The wire rows of the opcode table -/

/-- The wire rows that the block parses deliver what the decoder command delivers on the same bytes, and the entry rows what `TLV_DEC` does;
`frame.brew` what `BREW` does on its fields. That they are executed at all is the model's choice (notes/assumptions/3.md, 4.md); the effects are
those of R118, R136, R142, R147, R161. -/
def Obligations.WireRowsDeliverWhatTheirRulesSay : Prop :=
  (∀ (len prof bev : Byte) (tlv : Bytes) (crc : Half) (s : State), tlv.length + 8 ≤ Config.maxOperand → ∃ flags,
    exec (.frameRecipeProfile len prof bev tlv crc) s = .next (s.withResults 0x00 flags []
      (.recipe ⟨.profile, some 0xA6F0, some len, some prof, some bev, some (tlvDecode Config.tables tlv)⟩)) ∧
    exec (.rcpDec (encode (.frameRecipeProfile len prof bev tlv crc))) s = exec (.frameRecipeProfile len prof bev tlv crc) s) ∧
  (∀ (len bev : Byte) (tlv : Bytes) (crc : Half) (s : State), tlv.length + 7 ≤ Config.maxOperand → ∃ flags,
    exec (.frameRecipeDefault len bev tlv crc) s = .next (s.withResults 0x00 flags []
      (.recipe ⟨.default, some 0xB0F0, some len, none, some bev, some (tlvDecode Config.tables tlv)⟩)) ∧
    exec (.rcpDec (encode (.frameRecipeDefault len bev tlv crc))) s = exec (.frameRecipeDefault len bev tlv crc) s) ∧
  (∀ (len : Byte) (op : Half) (payload : Bytes) (crc : Half) (s : State), payload.length + 6 ≤ Config.maxOperand → ∃ flags,
    exec (.frameProperty len op payload crc) s = .next (s.withResults 0x00 flags payload
      (.property { kind := .frame, opcode := some op, declaredLen := some len })) ∧
    exec (.propDec (encode (.frameProperty len op payload crc))) s = exec (.frameProperty len op payload crc) s) ∧
  (∀ (len bev trig : Byte) (tlv : Bytes) (crc : Half) (s : State), tlv.length + 8 ≤ Config.maxOperand → ∃ t,
    exec (.frameBrew len bev trig tlv crc) s = .next t ∧ exec (.brew bev trig (tlvDecode Config.tables tlv)) s = .next t ∧
    t.status = 0x00 ∧ t.obuf = brewFrame bev trig (tlvEncode Config.tables (tlvDecode Config.tables tlv))) ∧
  (∀ (m : ParamMap) (bev trig : Byte) (s : State), m.Sorted → (tlvEncode Config.tables m).length + 7 ≤ 255 → ∃ t,
    exec (.frameBrew (lo8 (BitVec.ofNat 16 ((tlvEncode Config.tables m).length + 7))) bev trig (tlvEncode Config.tables m)
      (crcReg ([0x0D, lo8 (BitVec.ofNat 16 ((tlvEncode Config.tables m).length + 7)), 0x83, 0xF0, bev, trig] ++ tlvEncode Config.tables m))) s
      = .next t ∧ t.obuf = encode (.frameBrew (lo8 (BitVec.ofNat 16 ((tlvEncode Config.tables m).length + 7))) bev trig
        (tlvEncode Config.tables m) (crcReg ([0x0D, lo8 (BitVec.ofNat 16 ((tlvEncode Config.tables m).length + 7)), 0x83, 0xF0, bev, trig] ++
          tlvEncode Config.tables m)))) ∧
  (∀ (f : MonitorFrame) (s : State), Fits (encode (.frameMonitor f)) →
    [hi8 f.crc, lo8 f.crc] = crc16 ((encode (.frameMonitor f)).take 17) → ∃ flags extra r,
      exec (.frameMonitor f) s = .next (s.withResults 0x00 flags extra (.monitor r)) ∧
      exec (.monDec (encode (.frameMonitor f))) s = exec (.frameMonitor f) s) ∧
  (∀ (x v : Byte) (s : State), exec (.tlvEntry1 x v) s =
    .next (s.withResults 0x00 0x00 [] (.params (if x ∈ Config.tables.twoByteTags then [] else [(x, v.setWidth 16)])))) ∧
  (∀ (x : Byte) (v : Half) (s : State), exec (.tlvEntry2 x v) s =
    .next (s.withResults 0x00 0x00 [] (.params [(x, if x ∈ Config.tables.twoByteTags then v else (hi8 v).setWidth 16)])))
end

