-- ==== Sys2Proof/Laws/Bytes.lean ====
section
/-! SUPPORT. Laws of the byte helpers and of the parameter mapping (spec/20_memory R43, spec/10_state R22). -/

namespace Sys2Proof

@[simp] theorem be16_hi8_lo8 (v : Half) : be16 (hi8 v) (lo8 v) = v := by
  apply BitVec.eq_of_getLsbD_eq
  intro i hi
  simp only [be16, hi8, lo8, BitVec.getLsbD_append, BitVec.getLsbD_setWidth, BitVec.getLsbD_ushiftRight]
  by_cases h : i < 8
  · simp [h]
  · have h' : i - 8 < 8 := by omega
    have h'' : 8 + (i - 8) = i := by omega
    simp [h, h', h'']

@[simp] theorem hi8_be16 (hi lo : Byte) : hi8 (be16 hi lo) = hi := by
  apply BitVec.eq_of_getLsbD_eq
  intro i h
  have h' : ¬ 8 + i < 8 := by omega
  simp only [be16, hi8, BitVec.getLsbD_append, BitVec.getLsbD_setWidth, BitVec.getLsbD_ushiftRight]
  simp [h, h']

@[simp] theorem lo8_be16 (hi lo : Byte) : lo8 (be16 hi lo) = lo := by
  apply BitVec.eq_of_getLsbD_eq
  intro i h
  simp only [be16, lo8, BitVec.getLsbD_append, BitVec.getLsbD_setWidth]
  simp [h]

@[simp] theorem length_len16 (n : Nat) : (len16 n).length = 2 := rfl

@[simp] theorem length_encodeBytes (b : Bytes) : (encodeBytes b).length = b.length + 2 := by
  simp [encodeBytes, Nat.add_comm]

/-! ## The parameter mapping -/

@[simp] theorem ParamMap.get?_nil (t : Byte) : ParamMap.get? [] t = none := rfl

/-- A tag that is set reads its new value. -/
@[simp] theorem ParamMap.get?_set_self (m : ParamMap) (t : Byte) (v : Half) : (ParamMap.set m t v).get? t = some v := by
  induction m with
  | nil => simp [ParamMap.set, ParamMap.get?]
  | cons e m ih =>
    obtain ⟨u, w⟩ := e
    unfold ParamMap.set
    split
    · simp [ParamMap.get?]
    · split
      · simp [ParamMap.get?]
      · rename_i _ h
        simp [ParamMap.get?, h, ih]

/-- Every other tag reads as before. -/
theorem ParamMap.get?_set_other (m : ParamMap) (t u : Byte) (v : Half) (h : u ≠ t) : (ParamMap.set m t v).get? u = m.get? u := by
  induction m with
  | nil => simp [ParamMap.set, ParamMap.get?, h]
  | cons e m ih =>
    obtain ⟨x, w⟩ := e
    unfold ParamMap.set
    split
    · simp [ParamMap.get?, h]
    · split
      · rename_i _ hx
        subst hx
        simp [ParamMap.get?, h]
      · simp [ParamMap.get?, ih]

/-- The tags of an updated mapping: the one set and those that were there. -/
theorem ParamMap.mem_set_tag (m : ParamMap) (t : Byte) (v : Half) (e : Byte × Half) (h : e ∈ ParamMap.set m t v) :
    e.1 = t ∨ e ∈ m := by
  induction m with
  | nil => simp [ParamMap.set] at h; simp [h]
  | cons d m ih =>
    obtain ⟨u, w⟩ := d
    unfold ParamMap.set at h
    split at h
    · rcases List.mem_cons.1 h with rfl | h
      · exact .inl rfl
      · exact .inr h
    · split at h
      · rcases List.mem_cons.1 h with rfl | h
        · exact .inl rfl
        · exact .inr (List.mem_cons_of_mem _ h)
      · rcases List.mem_cons.1 h with rfl | h
        · exact .inr List.mem_cons_self
        · exact (ih h).imp_right (List.mem_cons_of_mem _)

/-- An update keeps the canonical form (R22). -/
theorem ParamMap.sorted_set (m : ParamMap) (t : Byte) (v : Half) (h : m.Sorted) : (ParamMap.set m t v).Sorted := by
  induction m with
  | nil => simp [ParamMap.set, ParamMap.Sorted]
  | cons e m ih =>
    obtain ⟨u, w⟩ := e
    obtain ⟨hu, hm⟩ := List.pairwise_cons.1 h
    unfold ParamMap.set
    split
    · rename_i htu
      refine List.pairwise_cons.2 ⟨fun e he => ?_, h⟩
      rcases List.mem_cons.1 he with rfl | he
      · exact htu
      · exact BitVec.lt_trans htu (hu e he)
    · split
      · rename_i _ htu
        subst htu
        exact List.pairwise_cons.2 ⟨hu, hm⟩
      · rename_i h1 h2
        refine List.pairwise_cons.2 ⟨fun e he => ?_, ih hm⟩
        rcases ParamMap.mem_set_tag m t v e he with h3 | h3
        · rw [h3]
          show u < t
          rw [BitVec.lt_def] at h1 ⊢
          have := mt BitVec.eq_of_toNat_eq h2
          omega
        · exact hu e h3

/-- Reading entries into a canonical mapping gives a canonical mapping (R63). -/
theorem readEntries_sorted (n : Nat) (b : Bytes) (m : ParamMap) (h : m.Sorted) : (readEntries n b m).Sorted := by
  induction n generalizing b m with
  | zero => simpa [readEntries] using h
  | succ n ih =>
    match b with
    | [] => simpa [readEntries] using h
    | [_] => simpa [readEntries] using h
    | [_, _] => simpa [readEntries] using h
    | t :: hi :: lo :: rest => exact ih _ _ (ParamMap.sorted_set _ _ _ h)

end Sys2Proof
end

