-- ==== Sys2Proof/Laws/State.lean ====
section
/-! SUPPORT. One lemma per field for each update of the state, so that no later proof unfolds a record update. -/

namespace Sys2Proof.Machine

@[simp] theorem complete_port (f : Byte) (o : Bytes) (r : Res) (s : State) : (complete f o r s).port = s.port := rfl
@[simp] theorem complete_crc (f : Byte) (o : Bytes) (r : Res) (s : State) : (complete f o r s).crc = s.crc := rfl
@[simp] theorem complete_sess (f : Byte) (o : Bytes) (r : Res) (s : State) : (complete f o r s).sess = s.sess := rfl
@[simp] theorem complete_lanKey (f : Byte) (o : Bytes) (r : Res) (s : State) : (complete f o r s).lanKey = s.lanKey := rfl
@[simp] theorem complete_kSign (f : Byte) (o : Bytes) (r : Res) (s : State) : (complete f o r s).kSign = s.kSign := rfl
@[simp] theorem complete_kApp (f : Byte) (o : Bytes) (r : Res) (s : State) : (complete f o r s).kApp = s.kApp := rfl
@[simp] theorem complete_ivApp (f : Byte) (o : Bytes) (r : Res) (s : State) : (complete f o r s).ivApp = s.ivApp := rfl
@[simp] theorem complete_kDev (f : Byte) (o : Bytes) (r : Res) (s : State) : (complete f o r s).kDev = s.kDev := rfl
@[simp] theorem complete_ivDev (f : Byte) (o : Bytes) (r : Res) (s : State) : (complete f o r s).ivDev = s.ivDev := rfl
@[simp] theorem complete_obuf (f : Byte) (o : Bytes) (r : Res) (s : State) : (complete f o r s).obuf = o := rfl
@[simp] theorem complete_status (f : Byte) (o : Bytes) (r : Res) (s : State) : (complete f o r s).status = Status.ok.code := rfl
@[simp] theorem complete_flags (f : Byte) (o : Bytes) (r : Res) (s : State) : (complete f o r s).flags = f := rfl
@[simp] theorem complete_res (f : Byte) (o : Bytes) (r : Res) (s : State) : (complete f o r s).res = r := rfl

@[simp] theorem raiseWith_port (st : Status) (r : Res) (s : State) : (raiseWith st r s).port = s.port := rfl
@[simp] theorem raiseWith_crc (st : Status) (r : Res) (s : State) : (raiseWith st r s).crc = s.crc := rfl
@[simp] theorem raiseWith_sess (st : Status) (r : Res) (s : State) : (raiseWith st r s).sess = s.sess := rfl
@[simp] theorem raiseWith_lanKey (st : Status) (r : Res) (s : State) : (raiseWith st r s).lanKey = s.lanKey := rfl
@[simp] theorem raiseWith_kSign (st : Status) (r : Res) (s : State) : (raiseWith st r s).kSign = s.kSign := rfl
@[simp] theorem raiseWith_kApp (st : Status) (r : Res) (s : State) : (raiseWith st r s).kApp = s.kApp := rfl
@[simp] theorem raiseWith_ivApp (st : Status) (r : Res) (s : State) : (raiseWith st r s).ivApp = s.ivApp := rfl
@[simp] theorem raiseWith_kDev (st : Status) (r : Res) (s : State) : (raiseWith st r s).kDev = s.kDev := rfl
@[simp] theorem raiseWith_ivDev (st : Status) (r : Res) (s : State) : (raiseWith st r s).ivDev = s.ivDev := rfl
@[simp] theorem raiseWith_obuf (st : Status) (r : Res) (s : State) : (raiseWith st r s).obuf = [] := rfl
@[simp] theorem raiseWith_status (st : Status) (r : Res) (s : State) : (raiseWith st r s).status = st.code := rfl
@[simp] theorem raiseWith_flags (st : Status) (r : Res) (s : State) : (raiseWith st r s).flags = noFlags := rfl
@[simp] theorem raiseWith_res (st : Status) (r : Res) (s : State) : (raiseWith st r s).res = r := rfl

@[simp] theorem raise_port (st : Status) (s : State) : (raise st s).port = s.port := rfl
@[simp] theorem raise_crc (st : Status) (s : State) : (raise st s).crc = s.crc := rfl
@[simp] theorem raise_sess (st : Status) (s : State) : (raise st s).sess = s.sess := rfl
@[simp] theorem raise_lanKey (st : Status) (s : State) : (raise st s).lanKey = s.lanKey := rfl
@[simp] theorem raise_kSign (st : Status) (s : State) : (raise st s).kSign = s.kSign := rfl
@[simp] theorem raise_kApp (st : Status) (s : State) : (raise st s).kApp = s.kApp := rfl
@[simp] theorem raise_ivApp (st : Status) (s : State) : (raise st s).ivApp = s.ivApp := rfl
@[simp] theorem raise_kDev (st : Status) (s : State) : (raise st s).kDev = s.kDev := rfl
@[simp] theorem raise_ivDev (st : Status) (s : State) : (raise st s).ivDev = s.ivDev := rfl
@[simp] theorem raise_obuf (st : Status) (s : State) : (raise st s).obuf = [] := rfl
@[simp] theorem raise_status (st : Status) (s : State) : (raise st s).status = st.code := rfl
@[simp] theorem raise_flags (st : Status) (s : State) : (raise st s).flags = noFlags := rfl
@[simp] theorem raise_res (st : Status) (s : State) : (raise st s).res = .none := rfl

@[simp] theorem badCommand_port (s : State) : (badCommand s).port = s.port := rfl
@[simp] theorem badCommand_crc (s : State) : (badCommand s).crc = s.crc := rfl
@[simp] theorem badCommand_sess (s : State) : (badCommand s).sess = s.sess := rfl
@[simp] theorem badCommand_lanKey (s : State) : (badCommand s).lanKey = s.lanKey := rfl
@[simp] theorem badCommand_kSign (s : State) : (badCommand s).kSign = s.kSign := rfl
@[simp] theorem badCommand_kApp (s : State) : (badCommand s).kApp = s.kApp := rfl
@[simp] theorem badCommand_ivApp (s : State) : (badCommand s).ivApp = s.ivApp := rfl
@[simp] theorem badCommand_kDev (s : State) : (badCommand s).kDev = s.kDev := rfl
@[simp] theorem badCommand_ivDev (s : State) : (badCommand s).ivDev = s.ivDev := rfl
@[simp] theorem badCommand_obuf (s : State) : (badCommand s).obuf = [] := rfl
@[simp] theorem badCommand_status (s : State) : (badCommand s).status = Status.badCmd.code := rfl
@[simp] theorem badCommand_flags (s : State) : (badCommand s).flags = noFlags := rfl
@[simp] theorem badCommand_res (s : State) : (badCommand s).res = .none := rfl

@[simp] theorem clearSecrets_port (s : State) : (clearSecrets s).port = s.port := rfl
@[simp] theorem clearSecrets_crc (s : State) : (clearSecrets s).crc = s.crc := rfl
@[simp] theorem clearSecrets_sess (s : State) : (clearSecrets s).sess = s.sess := rfl
@[simp] theorem clearSecrets_lanKey (s : State) : (clearSecrets s).lanKey = s.lanKey := rfl
@[simp] theorem clearSecrets_kSign (s : State) : (clearSecrets s).kSign = none := rfl
@[simp] theorem clearSecrets_kApp (s : State) : (clearSecrets s).kApp = none := rfl
@[simp] theorem clearSecrets_ivApp (s : State) : (clearSecrets s).ivApp = none := rfl
@[simp] theorem clearSecrets_kDev (s : State) : (clearSecrets s).kDev = none := rfl
@[simp] theorem clearSecrets_ivDev (s : State) : (clearSecrets s).ivDev = none := rfl
@[simp] theorem clearSecrets_obuf (s : State) : (clearSecrets s).obuf = s.obuf := rfl
@[simp] theorem clearSecrets_status (s : State) : (clearSecrets s).status = s.status := rfl
@[simp] theorem clearSecrets_flags (s : State) : (clearSecrets s).flags = s.flags := rfl
@[simp] theorem clearSecrets_res (s : State) : (clearSecrets s).res = s.res := rfl

@[simp] theorem resetState_port (s : State) : (resetState s).port = s.port := rfl
@[simp] theorem resetState_crc (s : State) : (resetState s).crc = 0x1D0F := rfl
@[simp] theorem resetState_sess (s : State) : (resetState s).sess = .uninit := rfl
@[simp] theorem resetState_lanKey (s : State) : (resetState s).lanKey = none := rfl
@[simp] theorem resetState_kSign (s : State) : (resetState s).kSign = none := rfl
@[simp] theorem resetState_kApp (s : State) : (resetState s).kApp = none := rfl
@[simp] theorem resetState_ivApp (s : State) : (resetState s).ivApp = none := rfl
@[simp] theorem resetState_kDev (s : State) : (resetState s).kDev = none := rfl
@[simp] theorem resetState_ivDev (s : State) : (resetState s).ivDev = none := rfl
@[simp] theorem resetState_obuf (s : State) : (resetState s).obuf = [] := rfl
@[simp] theorem resetState_status (s : State) : (resetState s).status = 0 := rfl
@[simp] theorem resetState_flags (s : State) : (resetState s).flags = 0 := rfl
@[simp] theorem resetState_res (s : State) : (resetState s).res = .none := rfl

@[simp] theorem completeCrc_port (v : Half) (s : State) : (completeCrc v s).port = s.port := rfl
@[simp] theorem completeCrc_crc (v : Half) (s : State) : (completeCrc v s).crc = v := rfl
@[simp] theorem completeCrc_sess (v : Half) (s : State) : (completeCrc v s).sess = s.sess := rfl
@[simp] theorem completeCrc_lanKey (v : Half) (s : State) : (completeCrc v s).lanKey = s.lanKey := rfl
@[simp] theorem completeCrc_kSign (v : Half) (s : State) : (completeCrc v s).kSign = s.kSign := rfl
@[simp] theorem completeCrc_kApp (v : Half) (s : State) : (completeCrc v s).kApp = s.kApp := rfl
@[simp] theorem completeCrc_ivApp (v : Half) (s : State) : (completeCrc v s).ivApp = s.ivApp := rfl
@[simp] theorem completeCrc_kDev (v : Half) (s : State) : (completeCrc v s).kDev = s.kDev := rfl
@[simp] theorem completeCrc_ivDev (v : Half) (s : State) : (completeCrc v s).ivDev = s.ivDev := rfl
@[simp] theorem completeCrc_obuf (v : Half) (s : State) : (completeCrc v s).obuf = halfBytes v := rfl
@[simp] theorem completeCrc_status (v : Half) (s : State) : (completeCrc v s).status = Status.ok.code := rfl
@[simp] theorem completeCrc_flags (v : Half) (s : State) : (completeCrc v s).flags = noFlags := rfl
@[simp] theorem completeCrc_res (v : Half) (s : State) : (completeCrc v s).res = .crc v := rfl

@[simp] theorem completeTlvDec_port (c : TlvTables) (d : Bytes) (s : State) : (completeTlvDec c d s).port = s.port := rfl
@[simp] theorem completeTlvDec_crc (c : TlvTables) (d : Bytes) (s : State) : (completeTlvDec c d s).crc = s.crc := rfl
@[simp] theorem completeTlvDec_sess (c : TlvTables) (d : Bytes) (s : State) : (completeTlvDec c d s).sess = s.sess := rfl
@[simp] theorem completeTlvDec_lanKey (c : TlvTables) (d : Bytes) (s : State) : (completeTlvDec c d s).lanKey = s.lanKey := rfl
@[simp] theorem completeTlvDec_kSign (c : TlvTables) (d : Bytes) (s : State) : (completeTlvDec c d s).kSign = s.kSign := rfl
@[simp] theorem completeTlvDec_kApp (c : TlvTables) (d : Bytes) (s : State) : (completeTlvDec c d s).kApp = s.kApp := rfl
@[simp] theorem completeTlvDec_ivApp (c : TlvTables) (d : Bytes) (s : State) : (completeTlvDec c d s).ivApp = s.ivApp := rfl
@[simp] theorem completeTlvDec_kDev (c : TlvTables) (d : Bytes) (s : State) : (completeTlvDec c d s).kDev = s.kDev := rfl
@[simp] theorem completeTlvDec_ivDev (c : TlvTables) (d : Bytes) (s : State) : (completeTlvDec c d s).ivDev = s.ivDev := rfl
@[simp] theorem completeTlvDec_obuf (c : TlvTables) (d : Bytes) (s : State) : (completeTlvDec c d s).obuf = [] := rfl
@[simp] theorem completeTlvDec_status (c : TlvTables) (d : Bytes) (s : State) : (completeTlvDec c d s).status = Status.ok.code := rfl
@[simp] theorem completeTlvDec_flags (c : TlvTables) (d : Bytes) (s : State) : (completeTlvDec c d s).flags = noFlags := rfl
@[simp] theorem completeTlvDec_res (c : TlvTables) (d : Bytes) (s : State) : (completeTlvDec c d s).res = .params (tlvDecode c d) := rfl

@[simp] theorem installSecrets_port (x : Secrets) (s : State) : (installSecrets x s).port = s.port := rfl
@[simp] theorem installSecrets_crc (x : Secrets) (s : State) : (installSecrets x s).crc = s.crc := rfl
@[simp] theorem installSecrets_sess (x : Secrets) (s : State) : (installSecrets x s).sess = s.sess := rfl
@[simp] theorem installSecrets_lanKey (x : Secrets) (s : State) : (installSecrets x s).lanKey = s.lanKey := rfl
@[simp] theorem installSecrets_kSign (x : Secrets) (s : State) : (installSecrets x s).kSign = some x.kSign := rfl
@[simp] theorem installSecrets_kApp (x : Secrets) (s : State) : (installSecrets x s).kApp = some x.kApp := rfl
@[simp] theorem installSecrets_ivApp (x : Secrets) (s : State) : (installSecrets x s).ivApp = some x.ivApp := rfl
@[simp] theorem installSecrets_kDev (x : Secrets) (s : State) : (installSecrets x s).kDev = some x.kDev := rfl
@[simp] theorem installSecrets_ivDev (x : Secrets) (s : State) : (installSecrets x s).ivDev = some x.ivDev := rfl
@[simp] theorem installSecrets_obuf (x : Secrets) (s : State) : (installSecrets x s).obuf = s.obuf := rfl
@[simp] theorem installSecrets_status (x : Secrets) (s : State) : (installSecrets x s).status = s.status := rfl
@[simp] theorem installSecrets_flags (x : Secrets) (s : State) : (installSecrets x s).flags = s.flags := rfl
@[simp] theorem installSecrets_res (x : Secrets) (s : State) : (installSecrets x s).res = s.res := rfl

/-- A live session ends (R188, R190). -/
theorem invalidate_of_live (s : State) (h : s.sess.live = true) : invalidate s = clearSecrets { s with sess := .expired } := by
  simp [invalidate, h]

/-- A session that is not live stays as it is (R188, R190). -/
theorem invalidate_of_not_live (s : State) (h : s.sess.live = false) : invalidate s = s := by
  simp [invalidate, h]

@[simp] theorem invalidate_port (s : State) : (invalidate s).port = s.port := by
  unfold invalidate; split <;> rfl
@[simp] theorem invalidate_crc (s : State) : (invalidate s).crc = s.crc := by
  unfold invalidate; split <;> rfl
@[simp] theorem invalidate_lanKey (s : State) : (invalidate s).lanKey = s.lanKey := by
  unfold invalidate; split <;> rfl
@[simp] theorem invalidate_obuf (s : State) : (invalidate s).obuf = s.obuf := by
  unfold invalidate; split <;> rfl
@[simp] theorem invalidate_status (s : State) : (invalidate s).status = s.status := by
  unfold invalidate; split <;> rfl
@[simp] theorem invalidate_flags (s : State) : (invalidate s).flags = s.flags := by
  unfold invalidate; split <;> rfl
@[simp] theorem invalidate_res (s : State) : (invalidate s).res = s.res := by
  unfold invalidate; split <;> rfl

end Sys2Proof.Machine
end

