-- ==== Sys2Proof/Laws/Ops.lean ====
section
/-! SUPPORT. For each shared operation one lemma that says everything it can do; later proofs cite these instead of unfolding it. -/

namespace Sys2Proof.Machine

/-! ## Guards -/

/-- The operand check either raises `OPERAND` or is passed (R64, R274). -/
theorem withOperands_cases (ops : List Bytes) (s : State) (body : Outcome) :
    (operandTooLong ops = true ∧ withOperands ops s body = .next (raise .operand s)) ∨
      (operandTooLong ops = false ∧ withOperands ops s body = body) := by
  cases h : operandTooLong ops <;> simp [withOperands, raised, h]

theorem withOperands_of_fits (ops : List Bytes) (s : State) (body : Outcome) (h : ∀ b ∈ ops, b.length ≤ Config.maxOperand) :
    withOperands ops s body = body := by
  have : operandTooLong ops = false := by
    simp only [operandTooLong, List.any_eq_false, decide_eq_true_eq, not_lt]
    exact h
  simp [withOperands, this]

theorem withOperands_of_long (ops : List Bytes) (s : State) (body : Outcome) (b : Bytes) (hb : b ∈ ops)
    (h : Config.maxOperand < b.length) : withOperands ops s body = .next (raise .operand s) := by
  have : operandTooLong ops = true := List.any_eq_true.2 ⟨b, hb, by simpa using h⟩
  simp [withOperands, raised, this]

/-- A session command runs in a live session and raises `NEEDS_REKEY` otherwise. -/
theorem withLiveSession_cases (s : State) (body : Outcome) :
    (s.sess.live = false ∧ withLiveSession s body = .next (raise .needsRekey s)) ∨
      (s.sess.live = true ∧ withLiveSession s body = body) := by
  cases h : s.sess.live <;> simp [withLiveSession, raised, h]

/-- Reading a register that may hold none answers its value or the model fault. -/
theorem readSecret_cases (reg : SecretReg) (v : Option Bytes) (k : Bytes → Outcome) :
    (∃ b, v = some b ∧ readSecret reg v k = k b) ∨ (v = none ∧ readSecret reg v k = .fault (.readOfNone reg)) := by
  cases v with
  | none => exact .inr ⟨rfl, rfl⟩
  | some b => exact .inl ⟨b, rfl, rfl⟩

/-! ## Ends of commands -/

theorem deliverText_cases (out : Bytes) (s : State) :
    (Config.obufSize < out.length ∧ deliverText out s = .next (raise .operand s)) ∨
      (out.length ≤ Config.obufSize ∧ deliverText out s = .next (complete noFlags out .none s)) := by
  by_cases h : Config.obufSize < out.length
  · exact .inl ⟨h, by simp [deliverText, resultTooLong, raised, h]⟩
  · exact .inr ⟨not_lt.1 h, by simp [deliverText, resultTooLong, delivered, h]⟩

theorem deliverDecoded_cases (st : Status) (out : Option Bytes) (s : State) :
    (∃ b, out = some b ∧ deliverDecoded st out s = .next (complete noFlags b .none s)) ∨
      (out = none ∧ deliverDecoded st out s = .next (raise st s)) := by
  cases out with
  | none => exact .inr ⟨rfl, rfl⟩
  | some b => exact .inl ⟨b, rfl, rfl⟩

/-- `MON_DEC` either raises the first failing test's status with the raw length, or delivers the record (R130). -/
theorem decodeMonitor_cases (f : Bytes) (s : State) :
    (∃ st, monitorCheck f = some st ∧ decodeMonitor f s = raiseWith st (.rawlen (rawLength f)) s) ∨
      (monitorCheck f = none ∧ decodeMonitor f s =
        complete (monitorFlags (monitorTimestamp f).isSome) (monitorExtra f) (.monitor (monitorRecord f)) s) := by
  cases h : monitorCheck f with
  | none => exact .inr ⟨rfl, by simp [decodeMonitor, h]⟩
  | some st => exact .inl ⟨st, rfl, by simp [decodeMonitor, h]⟩

/-- The statuses `MON_DEC` can raise (R275). -/
theorem monitorCheck_status (f : Bytes) (st : Status) (h : monitorCheck f = some st) :
    st = .parseShort ∨ st = .parseLength ∨ st = .parseCrc ∨ st = .parseContents := by
  unfold monitorCheck at h
  dsimp only at h
  split_ifs at h <;> simp_all

/-- `RCP_DEC` always completes, in one of three formats (R143). -/
theorem decodeRecipe_complete (c : TlvTables) (f : Bytes) (s : State) :
    ∃ flags out, decodeRecipe c f s = complete flags out (.recipe (recipeRecord c f (recipeFormat f))) s := by
  unfold decodeRecipe
  cases recipeFormat f <;> exact ⟨_, _, rfl⟩

/-- `PROP_DEC` always completes (R148). -/
theorem decodeProperty_complete (f : Bytes) (s : State) :
    ∃ flags out r, decodeProperty f s = complete flags out (.property r) s := by
  unfold decodeProperty
  split <;> exact ⟨_, _, _, rfl⟩

/-- `BREW` always completes with a byte string alone (R163). -/
theorem buildBrew_complete (c : TlvTables) (bev trig : Byte) (m : ParamMap) (s : State) :
    buildBrew c bev trig m s = complete (brewFlags (decide (255 < brewLength (tlvEncode c m)))) (brewFrame bev trig (tlvEncode c m)) .none s :=
  rfl

/-! ## Commands over the session registers -/

/-- What `SETKEY` can do (R188). -/
theorem execSetKey_cases (key : Bytes) (s : State) :
    (Config.maxOperand < key.length ∧ execSetKey key s = .next (raise .operand s)) ∨
      (key.length ≤ Config.maxOperand ∧
        execSetKey key s = .next (complete noFlags [] .none (invalidate { s with lanKey := some key }))) := by
  rcases withOperands_cases [key] s (.next (complete noFlags [] .none (invalidate { s with lanKey := some key }))) with h | h
  · exact .inl ⟨by simpa [operandTooLong] using h.1, h.2⟩
  · exact .inr ⟨by simpa [operandTooLong] using h.1, h.2⟩

/-- What `DERIVE` can do (R189). -/
theorem execDerive_cases (ar dr atm dtm : Bytes) (s : State) :
    execDerive ar dr atm dtm s = .next (raise .operand s) ∨
      (s.lanKey = none ∧ execDerive ar dr atm dtm s = .next (raise .noLanKey s)) ∨
      (∃ k, s.lanKey = some k ∧ execDerive ar dr atm dtm s =
        .next (complete noFlags [] .none (installSecrets (deriveSecrets k ⟨ar, dr, atm, dtm⟩) { s with sess := .derived }))) := by
  unfold execDerive
  rcases withOperands_cases [ar, dr, atm, dtm] s (match s.lanKey with
    | none => raised .noLanKey s
    | some k => .next (complete noFlags [] .none
        (installSecrets (deriveSecrets k ⟨ar, dr, atm, dtm⟩) { s with sess := .derived }))) with ⟨-, h⟩ | ⟨-, h⟩
  · exact .inl h
  · refine .inr ?_
    cases hk : s.lanKey with
    | none => exact .inl ⟨rfl, by rw [hk] at h; exact h⟩
    | some k => exact .inr ⟨k, rfl, by rw [hk] at h; exact h⟩

/-- What `ENC` can do (R223). -/
theorem execEnc_cases (p : Bytes) (s : State) :
    (∃ st, execEnc p s = .next (raise st s) ∧ (st = .operand ∨ st = .needsRekey)) ∨
      (∃ reg, s.sess.live = true ∧ execEnc p s = .fault (.readOfNone reg) ∧ (s.kApp = none ∨ s.ivApp = none)) ∨
      (∃ k v, s.sess.live = true ∧ p ≠ [] ∧ p.length ≤ Config.maxOperand ∧ s.kApp = some k ∧ s.ivApp = some v ∧
        execEnc p s = .next (complete noFlags (msgEncrypt k v p).1 .none
          { s with ivApp := some (msgEncrypt k v p).2, sess := .active })) := by
  unfold execEnc withOperands withLiveSession
  cases ho : operandTooLong [p] with
  | true => exact .inl ⟨.operand, rfl, .inl rfl⟩
  | false =>
    have hlen : p.length ≤ Config.maxOperand := by simpa [operandTooLong] using ho
    cases hl : s.sess.live with
    | false => exact .inl ⟨.needsRekey, rfl, .inr rfl⟩
    | true =>
      by_cases hp : p = []
      · exact .inl ⟨.operand, by simp [hp, raised], .inl rfl⟩
      · refine .inr ?_
        cases hk : s.kApp with
        | none => exact .inl ⟨.kApp, rfl, by simp [hp, readSecret], .inl rfl⟩
        | some k =>
          cases hv : s.ivApp with
          | none => exact .inl ⟨.ivApp, rfl, by simp [hp, readSecret], .inr rfl⟩
          | some v => exact .inr ⟨k, v, rfl, hp, hlen, rfl, rfl, by simp [hp, readSecret, delivered]⟩

/-- What `DEC` can do (R225). -/
theorem execDec_cases (c : Bytes) (s : State) :
    (∃ st, execDec c s = .next (raise st s) ∧ (st = .operand ∨ st = .needsRekey ∨ st = .authFail)) ∨
      (∃ reg, s.sess.live = true ∧ execDec c s = .fault (.readOfNone reg) ∧ (s.kDev = none ∨ s.ivDev = none)) ∨
      (∃ k v, s.sess.live = true ∧ c.length ≠ 0 ∧ c.length % 16 = 0 ∧ c.length ≤ Config.maxOperand ∧ s.kDev = some k ∧
        s.ivDev = some v ∧ execDec c s = .next (complete noFlags (msgDecrypt k v c).1 .none
          { s with ivDev := some (msgDecrypt k v c).2, sess := .active })) := by
  unfold execDec withOperands withLiveSession
  cases ho : operandTooLong [c] with
  | true => exact .inl ⟨.operand, rfl, .inl rfl⟩
  | false =>
    have hlen : c.length ≤ Config.maxOperand := by simpa [operandTooLong] using ho
    cases hl : s.sess.live with
    | false => exact .inl ⟨.needsRekey, rfl, .inr (.inl rfl)⟩
    | true =>
      by_cases hc : c.length = 0 ∨ c.length % 16 ≠ 0
      · exact .inl ⟨.authFail, by simp only [Bool.false_eq_true, if_false, if_true, if_pos hc]; rfl, .inr (.inr rfl)⟩
      · refine .inr ?_
        obtain ⟨h0, h16⟩ := not_or.1 hc
        have h16 := not_not.1 h16
        cases hk : s.kDev with
        | none => exact .inl ⟨.kDev, rfl, by simp only [Bool.false_eq_true, if_false, if_true, if_neg hc]; rfl, .inl rfl⟩
        | some k =>
          cases hv : s.ivDev with
          | none => exact .inl ⟨.ivDev, rfl, by simp only [Bool.false_eq_true, if_false, if_true, if_neg hc]; rfl, .inr rfl⟩
          | some v =>
            exact .inr ⟨k, v, rfl, h0, h16, hlen, rfl, rfl, by
              simp only [Bool.false_eq_true, if_false, if_true, if_neg hc]; rfl⟩

/-- What `SIGN` can do (R227). -/
theorem execSign_cases (p : Bytes) (s : State) :
    (∃ st, execSign p s = .next (raise st s) ∧ (st = .operand ∨ st = .needsRekey)) ∨
      (s.sess.live = true ∧ execSign p s = .fault (.readOfNone .kSign) ∧ s.kSign = none) ∨
      (∃ k, s.sess.live = true ∧ p.length ≤ Config.maxOperand ∧ s.kSign = some k ∧
        execSign p s = .next (complete noFlags (hmac k p) .none s)) := by
  unfold execSign withOperands withLiveSession
  cases ho : operandTooLong [p] with
  | true => exact .inl ⟨.operand, rfl, .inl rfl⟩
  | false =>
    have hlen : p.length ≤ Config.maxOperand := by simpa [operandTooLong] using ho
    cases hl : s.sess.live with
    | false => exact .inl ⟨.needsRekey, rfl, .inr rfl⟩
    | true =>
      refine .inr ?_
      cases hk : s.kSign with
      | none => exact .inl ⟨rfl, rfl, rfl⟩
      | some k => exact .inr ⟨k, rfl, hlen, rfl, rfl⟩

/-! ## The port and the step -/

@[simp] theorem fetch_empty (s : State) (h : s.port = []) : fetch s = none := by simp [fetch, h]

@[simp] theorem fetch_cons (s : State) (o : Offer) (rest : List Offer) (h : s.port = o :: rest) :
    fetch s = some (o, { s with port := rest }) := by simp [fetch, h]

/-- Everything a step can do: idle, run the instruction of the oldest offer, or raise `BADCMD` (R49, R64, R286). -/
theorem step_cases (s : State) :
    (s.port = [] ∧ step s = .next s) ∨
      (∃ o rest i, s.port = o :: rest ∧ decodeOffer o = .ok i ∧ step s = exec i { s with port := rest }) ∨
      (∃ o rest e, s.port = o :: rest ∧ decodeOffer o = .error e ∧ step s = .next (badCommand { s with port := rest })) := by
  cases hp : s.port with
  | nil => exact .inl ⟨rfl, by simp [step, fetch_empty s hp]⟩
  | cons o rest =>
    refine .inr ?_
    cases hd : decodeOffer o with
    | ok i => exact .inl ⟨o, rest, i, rfl, hd, by simp [step, fetch_cons s o rest hp, hd]⟩
    | error e => exact .inr ⟨o, rest, e, rfl, hd, by simp [step, fetch_cons s o rest hp, hd]⟩

end Sys2Proof.Machine
end

