-- ==== Sys2Proof/Laws/Memory.lean ====
section
/-! SUPPORT. The output buffer as memory (spec/20_memory R40, R41; spec/10_state R17): reads, and what the operations over it keep. -/

namespace Sys2Proof.Machine

/-- Reset leaves the buffer in its form. -/
theorem reset_obuf_wf : Memory.wf State.reset.obuf = true := rfl

/-- Raising a status leaves an empty buffer (R271). -/
theorem raiseWith_obuf_wf (st : Status) (r : Res) (s : State) : Memory.wf (raiseWith st r s).obuf = true := rfl

/-- A successful end leaves the buffer in its form when the result fits (R17). -/
theorem complete_obuf_wf (f : Byte) (o : Bytes) (r : Res) (s : State) (h : o.length ≤ Config.obufSize) :
    Memory.wf (complete f o r s).obuf = true :=
  decide_eq_true h

/-- An encoder's end keeps the form: what does not fit raises `OPERAND` (R242, R246). -/
theorem deliverText_obuf_wf (out : Bytes) (s t : State) (h : deliverText out s = .next t) : Memory.wf t.obuf = true := by
  rcases deliverText_cases out s with ⟨-, h'⟩ | ⟨hl, h'⟩
  · rw [h'] at h
    cases h
    rfl
  · rw [h'] at h
    cases h
    exact complete_obuf_wf _ _ _ _ hl

/-- A read at an index below `OLEN` answers a byte, any other read answers none (R41). -/
theorem Memory.read_isSome (m : Bytes) (i : Nat) : (Memory.read m i).isSome = decide (i < m.length) := by
  by_cases h : i < m.length <;> simp [Memory.read, h]

/-- After a command that delivers `o`, reading byte `i` gives byte `i` of `o` (R17, R40). -/
theorem read_complete (f : Byte) (o : Bytes) (r : Res) (s : State) (i : Nat) : Memory.read (complete f o r s).obuf i = o[i]? := rfl

/-- The cells of the buffer have strictly rising addresses. -/
theorem cells_rising (m : Bytes) : (Memory.cells m).Pairwise (fun a b => a.1 < b.1) := by
  rw [List.pairwise_iff_getElem]
  intro i j hi hj h
  simpa [Memory.cells] using h

/-- Equal cells are equal buffers. -/
theorem cells_injective (m n : Bytes) (h : Memory.cells m = Memory.cells n) : m = n := by
  have h' := congrArg (List.map Prod.snd) h
  have e : ∀ l : Bytes, (Memory.cells l).map Prod.snd = l := fun l => by
    have : (Prod.snd ∘ fun e : Byte × Nat => (e.2, e.1)) = Prod.fst := rfl
    rw [Memory.cells, List.map_map, this, List.zipIdx_map_fst]
  rwa [e, e] at h'

end Sys2Proof.Machine
end

