-- ==== Sys2Proof/Laws/PerInstr.lean ====
section
/-! SUPPORT. Statements made of every instruction, one lemma per constructor: the first byte of an instruction's bytes is its opcode byte
(spec/30_encoding R62), its marker (R73) or its tag (R71). -/

namespace Sys2Proof.Laws.FirstByte

/-- The opcode byte of a command, the marker or direction of a frame, the tag of an entry. -/
def firstByte : Instr → Byte
  | .nop => 0x00
  | .reset => 0x01
  | .crc16 _ => 0x10
  | .crcInit => 0x11
  | .crcUpd _ => 0x12
  | .tlvDec _ => 0x20
  | .tlvEnc _ => 0x21
  | .tlvName _ => 0x22
  | .monDec _ => 0x30
  | .rcpDec _ => 0x31
  | .propDec _ => 0x32
  | .brew _ _ _ => 0x40
  | .setKey _ => 0x50
  | .derive _ _ _ _ => 0x51
  | .expire => 0x52
  | .enc _ => 0x60
  | .dec _ => 0x61
  | .sign _ => 0x62
  | .b64e _ => 0x70
  | .b64d _ => 0x71
  | .hexe _ => 0x72
  | .hexd _ => 0x73
  | .frameBrew _ _ _ _ _ => 0x0D
  | .frameRecipeProfile _ _ _ _ _ => 0xD0
  | .frameRecipeDefault _ _ _ _ => 0xD0
  | .frameProperty _ _ _ _ => 0xD0
  | .frameMonitor f => f.direction
  | .tlvEntry1 t _ => t
  | .tlvEntry2 t _ => t

/-- The bytes of an instruction begin with its first byte. -/
def Statement (i : Instr) : Prop := (encode i).head? = some (firstByte i)

theorem nop : Statement .nop := rfl
theorem reset : Statement .reset := rfl
theorem crc16 (data : Bytes) : Statement (.crc16 data) := rfl
theorem crcInit : Statement .crcInit := rfl
theorem crcUpd (data : Bytes) : Statement (.crcUpd data) := rfl
theorem tlvDec (data : Bytes) : Statement (.tlvDec data) := rfl
theorem tlvEnc (params : ParamMap) : Statement (.tlvEnc params) := rfl
theorem tlvName (tag : Byte) : Statement (.tlvName tag) := rfl
theorem monDec (frame : Bytes) : Statement (.monDec frame) := rfl
theorem rcpDec (frame : Bytes) : Statement (.rcpDec frame) := rfl
theorem propDec (frame : Bytes) : Statement (.propDec frame) := rfl
theorem brew (bevId trigger : Byte) (params : ParamMap) : Statement (.brew bevId trigger params) := rfl
theorem setKey (key : Bytes) : Statement (.setKey key) := rfl
theorem derive (ar dr atm dtm : Bytes) : Statement (.derive ar dr atm dtm) := rfl
theorem expire : Statement .expire := rfl
theorem enc (plaintext : Bytes) : Statement (.enc plaintext) := rfl
theorem dec (ciphertext : Bytes) : Statement (.dec ciphertext) := rfl
theorem sign (plaintext : Bytes) : Statement (.sign plaintext) := rfl
theorem b64e (data : Bytes) : Statement (.b64e data) := rfl
theorem b64d (text : Bytes) : Statement (.b64d text) := rfl
theorem hexe (data : Bytes) : Statement (.hexe data) := rfl
theorem hexd (text : Bytes) : Statement (.hexd text) := rfl
theorem frameBrew (len bevId trigger : Byte) (tlv : Bytes) (crc : Half) : Statement (.frameBrew len bevId trigger tlv crc) := rfl
theorem frameRecipeProfile (len profile bevId : Byte) (tlv : Bytes) (crc : Half) : Statement (.frameRecipeProfile len profile bevId tlv crc) := rfl
theorem frameRecipeDefault (len bevId : Byte) (tlv : Bytes) (crc : Half) : Statement (.frameRecipeDefault len bevId tlv crc) := rfl
theorem frameProperty (len : Byte) (opcode : Half) (payload : Bytes) (crc : Half) : Statement (.frameProperty len opcode payload crc) := rfl
theorem frameMonitor (frame : MonitorFrame) : Statement (.frameMonitor frame) := rfl
theorem tlvEntry1 (tag value : Byte) : Statement (.tlvEntry1 tag value) := rfl
theorem tlvEntry2 (tag : Byte) (value : Half) : Statement (.tlvEntry2 tag value) := rfl

end Sys2Proof.Laws.FirstByte
end

