-- ==== Sys2Proof/Laws/Tables.lean ====
section
/-! SUPPORT. The open tables as the model uses them: the priority list without repeats (spec/41_tlv R119), the loaded monitor profile
(spec/46_monitor_view R254). -/

namespace Sys2Proof.Machine

/-- Dropping repeats keeps every tag. -/
@[simp] theorem mem_firstOccurrences (t : Byte) (l : List Byte) : t ∈ firstOccurrences l ↔ t ∈ l := by
  induction l with
  | nil => simp [firstOccurrences]
  | cons u l ih => by_cases h : t = u <;> simp [firstOccurrences, ih, h]

/-- No tag is left twice. -/
theorem firstOccurrences_nodup (l : List Byte) : (firstOccurrences l).Nodup := by
  induction l with
  | nil => simp [firstOccurrences]
  | cons u l ih => exact List.nodup_cons.2 ⟨by simp, ih.filter _⟩

/-- What is left stands in the order of the list. -/
theorem firstOccurrences_sublist (l : List Byte) : (firstOccurrences l).Sublist l := by
  induction l with
  | nil => simp [firstOccurrences]
  | cons u l ih => exact (List.filter_sublist.trans ih).cons_cons u

/-- A list of distinct tags, as R8 requires, is used as it is. -/
theorem firstOccurrences_of_nodup (l : List Byte) (h : l.Nodup) : firstOccurrences l = l := by
  induction l with
  | nil => rfl
  | cons u l ih =>
    obtain ⟨hu, hl⟩ := List.nodup_cons.1 h
    have : l.filter (· ≠ u) = l := List.filter_eq_self.2 fun t ht => by simpa using fun e : t = u => hu (e ▸ ht)
    rw [firstOccurrences, ih hl, this]

/-- Loading either takes an accepted profile as it is or leaves every table empty. -/
theorem loadProfile_cases (o : Option MonitorProfile) :
    (∃ p, o = some p ∧ profileAccepted p = true ∧ loadProfile o = p) ∨
      ((∀ p, o = some p → profileAccepted p = false) ∧ loadProfile o = emptyProfile) := by
  cases o with
  | none => exact .inr ⟨fun p h => (by cases h), rfl⟩
  | some p => cases h : profileAccepted p <;> simp [loadProfile, h]

end Sys2Proof.Machine
end

