-- ==== Sys2Proof/Tests/Slice0.lean ====
section
/-! SUPPORT. Tests: WellFormed's refusals, written-out words, one-step tests against the vectors of spec/95_test_vectors and hand
calculation, and for every obligation with hypotheses a named state and operands that meet them (`witness_…`). -/

namespace Sys2Proof.Machine

set_option maxRecDepth 100000

/-- The outcome is a next state with the given property. -/
def nextWith (o : Outcome) (p : State → Bool) : Bool :=
  match o with
  | .next s => p s
  | _ => false

/-- A `MAX_OPERAND`-byte operand and one that is a byte too long (R64). -/
def longest : Bytes := List.replicate 65535 0
def tooLong : Bytes := List.replicate 65536 0

theorem test_longest_fits : Fits longest := by rw [Fits, longest, List.length_replicate]; decide
theorem test_tooLong_does_not_fit : Config.maxOperand < tooLong.length := by rw [tooLong, List.length_replicate]; decide

/-! ## WellFormed refuses an ill-formed term of each kind -/

theorem test_wf_refuses_long_operand : (Instr.crc16 tooLong).wellFormed = false := by
  simpa [Instr.wellFormed, operandFits] using test_tooLong_does_not_fit

theorem test_wf_refuses_one_long_nonce : (Instr.derive [] [] [] tooLong).wellFormed = false := by
  simpa [Instr.wellFormed, operandFits] using test_tooLong_does_not_fit

theorem test_wf_refuses_unsorted_mapping : (Instr.tlvEnc [(2, 0), (1, 0)]).wellFormed = false := by decide
theorem test_wf_refuses_repeated_tag : (Instr.brew 0 0 [(1, 0), (1, 5)]).wellFormed = false := by decide

theorem test_wf_refuses_long_frames :
    (Instr.frameBrew 0 0 0 (List.replicate 65528 0) 0).wellFormed = false ∧
    (Instr.frameRecipeProfile 0 0 0 (List.replicate 65528 0) 0).wellFormed = false ∧
    (Instr.frameRecipeDefault 0 0 (List.replicate 65529 0) 0).wellFormed = false ∧
    (Instr.frameProperty 0 0 (List.replicate 65530 0) 0).wellFormed = false ∧
    (Instr.frameMonitor ⟨0, 0, 0, 0, #v[0, 0], #v[0, 0], 0, 0, 0, #v[0, 0], #v[0, 0, 0], 0, List.replicate 65517 0⟩).wellFormed = false := by
  simp only [Instr.wellFormed, List.length_replicate]; decide

theorem test_wf_accepts_longest_frames :
    (Instr.frameBrew 0 0 0 (List.replicate 65527 0) 0).wellFormed = true ∧
    (Instr.frameProperty 0 0 (List.replicate 65529 0) 0).wellFormed = true := by
  simp only [Instr.wellFormed, List.length_replicate]; decide

/-- A tag has exactly one of the two entry forms (R71), whatever the open table holds. -/
theorem test_wf_one_entry_form (t v : Byte) (w : Half) : (Instr.tlvEntry1 t v).wellFormed = !(Instr.tlvEntry2 t w).wellFormed := by
  simp only [Instr.wellFormed, TlvTables.width]
  by_cases h : t ∈ Config.tables.twoByteTags <;> simp [h]

/-! ## Decode: every constructor from bytes written out from R62, R63 and R67 to R71 -/

theorem test_decode_nop : decode [0x00] = .ok .nop := by decide
theorem test_decode_reset : decode [0x01] = .ok .reset := by decide
theorem test_decode_crc16 : decode [0x10, 0x00, 0x02, 0xAB, 0xCD] = .ok (.crc16 [0xAB, 0xCD]) := by decide
theorem test_decode_crcInit : decode [0x11] = .ok .crcInit := by decide
theorem test_decode_crcUpd : decode [0x12, 0x00, 0x00] = .ok (.crcUpd []) := by decide
theorem test_decode_tlvDec : decode [0x20, 0x00, 0x01, 0x07] = .ok (.tlvDec [0x07]) := by decide
/-- The later entry of tag `0x1B` overwrites the earlier one (R63). -/
theorem test_decode_tlvEnc : decode [0x21, 0x00, 0x03, 0x1B, 0x12, 0x34, 0x02, 0x00, 0x05, 0x1B, 0x00, 0x04] =
    .ok (.tlvEnc [(0x02, 0x0005), (0x1B, 0x0004)]) := by decide
theorem test_decode_tlvName : decode [0x22, 0x0A] = .ok (.tlvName 0x0A) := by decide
theorem test_decode_monDec : decode [0x30, 0x00, 0x01, 0xD0] = .ok (.monDec [0xD0]) := by decide
theorem test_decode_rcpDec : decode [0x31, 0x00, 0x01, 0xD0] = .ok (.rcpDec [0xD0]) := by decide
theorem test_decode_propDec : decode [0x32, 0x00, 0x01, 0xD0] = .ok (.propDec [0xD0]) := by decide
theorem test_decode_brew : decode [0x40, 0x10, 0x02, 0x00, 0x02, 0x0F, 0x00, 0xFA, 0x1B, 0x00, 0x01] = .ok stopCommand := by decide
theorem test_decode_setKey : decode [0x50, 0x00, 0x02, 0x4B, 0x59] = .ok (.setKey [0x4B, 0x59]) := by decide
theorem test_decode_derive : decode [0x51, 0x00, 0x02, 0x41, 0x42, 0x00, 0x02, 0x43, 0x44, 0x00, 0x01, 0x31, 0x00, 0x01, 0x32] =
    .ok (.derive [0x41, 0x42] [0x43, 0x44] [0x31] [0x32]) := by decide
theorem test_decode_expire : decode [0x52] = .ok .expire := by decide
theorem test_decode_enc : decode [0x60, 0x00, 0x01, 0x41] = .ok (.enc [0x41]) := by decide
theorem test_decode_dec : decode [0x61, 0x00, 0x01, 0x41] = .ok (.dec [0x41]) := by decide
theorem test_decode_sign : decode [0x62, 0x00, 0x01, 0x41] = .ok (.sign [0x41]) := by decide
theorem test_decode_b64e : decode [0x70, 0x00, 0x01, 0x41] = .ok (.b64e [0x41]) := by decide
theorem test_decode_b64d : decode [0x71, 0x00, 0x01, 0x41] = .ok (.b64d [0x41]) := by decide
theorem test_decode_hexe : decode [0x72, 0x00, 0x01, 0x41] = .ok (.hexe [0x41]) := by decide
theorem test_decode_hexd : decode [0x73, 0x00, 0x01, 0x41] = .ok (.hexd [0x41]) := by decide

/-- The frames of spec/95 sections 4 and 5, field by field. -/
theorem test_decode_frameBrew :
    decodeWire .brew [0x0D, 0x0D, 0x83, 0xF0, 0x01, 0x01, 0x01, 0x24, 0x1B, 0x04, 0x02, 0x05, 0x02, 0x6E] =
      .ok (.frameBrew 0x0D 0x01 0x01 [0x01, 0x24, 0x1B, 0x04, 0x02, 0x05] 0x026E) := by decide
theorem test_decode_frameRecipeProfile :
    decodeWire .recipeProfile [0xD0, 0x09, 0xA6, 0xF0, 0x01, 0x02, 0x01, 0x24, 0xB9, 0xDC] =
      .ok (.frameRecipeProfile 0x09 0x01 0x02 [0x01, 0x24] 0xB9DC) := by decide
theorem test_decode_frameRecipeDefault :
    decodeWire .recipeDefault [0xD0, 0x06, 0xB0, 0xF0, 0x01, 0xAB, 0xCD] = .ok (.frameRecipeDefault 0x06 0x01 [] 0xABCD) := by decide
theorem test_decode_frameProperty :
    decodeWire .property [0xD0, 0x0B, 0xA4, 0xF0, 0x00, 0x41, 0x00, 0x42, 0x00, 0x43, 0x94, 0xB5] =
      .ok (.frameProperty 0x0B 0xA4F0 [0x00, 0x41, 0x00, 0x42, 0x00, 0x43] 0x94B5) := by decide
theorem test_decode_frameMonitor :
    decodeWire .monitor [0xD0, 0x12, 0x75, 0x0F, 0x02, 0xA1, 0xB2, 0xC3, 0xC4, 0x07, 0x0B, 0x32, 0xD8, 0xD9, 0xE1, 0xE2, 0xE3, 0xBB,
        0xEE, 0x65] =
      .ok (.frameMonitor ⟨0xD0, 0x75, 0x0F, 0x02, #v[0xA1, 0xB2], #v[0xC3, 0xC4], 0x07, 0x0B, 0x32, #v[0xD8, 0xD9],
        #v[0xE1, 0xE2, 0xE3], 0xBBEE, [0x65]⟩) := by decide
theorem test_decode_tlvEntry1 (h : (0x01 : Byte) ∉ Config.tables.twoByteTags) :
    decodeWire .tlvEntry [0x01, 0x24] = .ok (.tlvEntry1 0x01 0x24) := by
  simp only [decodeWire, TlvTables.width, if_neg h, if_true]
theorem test_decode_tlvEntry2 (h : (0x0F : Byte) ∈ Config.tables.twoByteTags) :
    decodeWire .tlvEntry [0x0F, 0x12, 0x34] = .ok (.tlvEntry2 0x0F 0x1234) := by
  simp only [decodeWire, TlvTables.width, if_pos h, if_true]; rfl

theorem test_decode_refuses : decode [] = .error .empty ∧ decode [0x02] = .error (.reservedOpcode 0x02) ∧
    decode [0xFF, 0x00] = .error (.reservedOpcode 0xFF) ∧ decode [0x00, 0x00] = .error .trailing ∧
    decode [0x10, 0x00] = .error .truncated ∧ decode [0x10, 0x00, 0x02, 0xAB] = .error .truncated ∧
    decode [0x21, 0x00, 0x01, 0x1B, 0x00] = .error .truncated ∧ decode [0x40, 0x01] = .error .truncated := by decide
theorem test_decodeWire_refuses : decodeWire .brew [0x0D, 0x07, 0x83, 0xF1, 0, 0, 0, 0] = .error (.notOfFormat .brew) ∧
    decodeWire .property [0xD0, 0x05, 0x95, 0x0F, 0x5B] = .error (.notOfFormat .property) := by decide

/-- The opcode table's numbering: a command's opcode byte, and a frame's first four bytes as a big-endian word. -/
theorem test_tableWord : decodeTableWord 8 0x22 = some (.tlvName 0) ∧ decodeTableWord 8 0x51 = some (.derive [] [] [] []) ∧
    decodeTableWord 8 0x13 = none ∧ decodeTableWord 32 0x0D0083F0 = some (.frameBrew 0 0 0 [] 0) ∧
    decodeTableWord 32 0xD012A6F0 = some (.frameRecipeProfile 0x12 0 0 [] 0) ∧
    decodeTableWord 32 0xD000B0F0 = some (.frameRecipeDefault 0 0 [] 0) ∧
    decodeTableWord 32 0xD0000000 = some (.frameProperty 0 0 [] 0) ∧ (decodeTableWord 32 0x00120000).isSome = true := by decide
theorem test_withFetchWord_runs_it : nextWith (step (State.reset.withFetchWord 8 0x11)) (fun t => t.res == .crc 0x1D0F) = true := by decide

/-! ## One instruction each, against spec/95 and the rules' own examples -/

theorem test_nop : exec .nop { State.reset with crc := 7, obuf := [1], status := 2, flags := 3, res := .crc 4 } =
    .next { State.reset with crc := 7 } := rfl
theorem test_reset : nextWith (exec .reset { State.reset with crc := 7, lanKey := some [1], port := [.descriptor [0x00]] })
    (fun t => t == { State.reset with port := [.descriptor [0x00]] }) = true := by decide
/-- `crc16(01) = DC BD` (spec/40 section 3). -/
theorem test_crc16 : nextWith (exec (.crc16 [0x01]) { State.reset with crc := 0x1234 })
    (fun t => t.crc == 0xDCBD && t.obuf == [0xDC, 0xBD] && t.res == .crc 0xDCBD) = true := by decide
theorem test_crc_of_a_request : crc16 [0x0D, 0x05, 0x75, 0x0F] = [0xDA, 0x25] := by decide
theorem test_crcInit : nextWith (exec .crcInit { State.reset with crc := 0 }) (fun t => t.crc == 0x1D0F && t.obuf == [0x1D, 0x0F]) = true := by
  decide
/-- The register after `8` of `123456789` is `712C`, after `9` it is `E5CC` (spec/40 section 3). -/
theorem test_crcUpd : nextWith (exec (.crcUpd [0x39]) { State.reset with crc := 0x712C }) (fun t => t.crc == 0xE5CC) = true := by decide

/-- spec/95 section 3, CFG-B: a two-byte tag, and a truncated one dropped. -/
theorem test_tlvDec : nextWith (.next (completeTlvDec cfgB [0x1B, 0x01, 0x0F, 0x00, 0xFA, 0x09] .reset))
    (fun t => t.res == .params [(0x0F, 0x00FA), (0x1B, 0x0001)] && t.obuf == []) = true := by decide
theorem test_tlvDec_later_wins : tlvDecode cfgA [0x01, 0x24, 0x01, 0x25] = [(0x01, 0x25)] := by decide
/-- spec/95 section 3, row 4. -/
theorem test_tlvEnc : tlvEncode cfgB [(0x02, 5), (0x03, 0x01FF), (0x09, 0x1234), (0x19, 1), (0xFF, 0)] =
    [0x19, 0x01, 0x02, 0x05, 0x03, 0xFF, 0x09, 0x12, 0x34, 0xFF, 0x00] := by decide +kernel
theorem test_tlvEnc_masks : tlvEncode cfgA [(0x00, 0x0100), (0x0F, 0x2345)] = [0x00, 0x00, 0x0F, 0x45] := by decide +kernel
theorem test_tlvName : tagName cfgA 0x0A = [0x30, 0x78, 0x30, 0x61] ∧ tagName cfgA 0xFF = [0x30, 0x78, 0x66, 0x66] := by decide +kernel
/-- spec/95 section 3: `TLV_NAMES = coffee` for tag `0x01`; a name of the fallback form or one already given is no entry (D35). -/
theorem test_tlvName_found :
    namedTag ⟨[], [], [(1, [0x63, 0x6F, 0x66, 0x66, 0x65, 0x65]), (2, [0x63, 0x6F, 0x66, 0x66, 0x65, 0x65]), (3, [0x30, 0x78, 0x30, 0x61])]⟩ 1
      = some [0x63, 0x6F, 0x66, 0x66, 0x65, 0x65] ∧
    namedTag ⟨[], [], [(1, [0x63]), (2, [0x63]), (3, [0x30, 0x78, 0x30, 0x61])]⟩ 2 = none ∧
    namedTag ⟨[], [], [(1, [0x63]), (2, [0x63]), (3, [0x30, 0x78, 0x30, 0x61])]⟩ 3 = none := by decide +kernel

/-- A priority list that names tag `0x02` twice: its first place counts (notes/assumptions/5.md). -/
theorem test_priority_first_place : tlvEncode ⟨[], [0x02, 0x01, 0x02], []⟩ [(0x01, 7), (0x02, 9)] = [0x02, 0x09, 0x01, 0x07] := by
  decide +kernel

/-- The monitor frame of spec/42 R137 and spec/95 section 5. -/
def monFrame : Bytes :=
  [0xD0, 0x12, 0x75, 0x0F, 0x02, 0xA1, 0xB2, 0xC3, 0xC4, 0x07, 0x0B, 0x32, 0xD8, 0xD9, 0xE1, 0xE2, 0xE3, 0xBB, 0xEE]
def monRecord : MonitorRecord :=
  ⟨0xD0, 18, 0x75, 0x0F, 0x02, #v[0xA1, 0xB2], #v[0xC3, 0xC4, 0xD8, 0xD9], 0x07, 0x0B, 0x32, #v[0xE1, 0xE2, 0xE3], 0xBBEE, none, 19⟩
theorem test_monDec : nextWith (exec (.monDec monFrame) .reset) (fun t => t.res == .monitor monRecord && t.flags == 0x03 && t.obuf == []) = true := by
  decide +kernel
theorem test_monDec_timestamp : nextWith (exec (.monDec (monFrame ++ [0x65, 0xA1, 0xB2, 0xC3, 0xEE])) .reset)
    (fun t => t.res == .monitor { monRecord with timestamp := some #v[0x65, 0xA1, 0xB2, 0xC3], rawlen := 24 } && t.flags == 0x0B &&
      t.obuf == [0xEE]) = true := by decide +kernel
theorem test_monDec_statuses : (monitorCheck [0xD0, 0x12, 0x75] = some .parseShort ∧ monitorCheck [0xD0, 0x02, 0x00, 0x00] = some .parseLength) ∧
    monitorCheck (monFrame.take 18) = some .parseLength ∧ monitorCheck (monFrame.take 18 ++ [0xEF]) = some .parseCrc ∧
    monitorCheck [0xD0, 0x03, 0xA1, 0x84] = some .parseContents ∧
    monitorCheck [0x0D, 0x05, 0x75, 0x0F, 0xDA, 0x25] = some .parseContents := by decide +kernel
/-- spec/42 R143 (CFG-A): the source's own recipe example; and a default frame of 7 bytes with a wrong CRC. -/
theorem test_rcpDec : nextWith (.next (decodeRecipe cfgA [0xD0, 0x09, 0xA6, 0xF0, 0x01, 0x01, 0x01, 0x24, 0xB9, 0xDC] .reset))
    (fun t => t.res == .recipe ⟨.profile, some 0xA6F0, some 0x09, some 1, some 1, some [(0x01, 0x24)]⟩ && t.flags == 0x13) = true := by
  decide +kernel
theorem test_rcpDec_unknown : nextWith (exec (.rcpDec [0xD0, 0x05, 0xA6, 0xF0]) .reset) (fun t => t.flags == 0 && t.status == 0 &&
    t.obuf == [0x64, 0x30, 0x30, 0x35, 0x61, 0x36, 0x66, 0x30]) = true := by decide +kernel
theorem test_propDec : nextWith (exec (.propDec [0xD0, 0x0B, 0xA4, 0xF0, 0x00, 0x41, 0x00, 0x42, 0x00, 0x43, 0x94, 0xB5]) .reset)
    (fun t => t.res == .property ⟨.frame, some 0xA4F0, some 0x0B⟩ && t.obuf == [0x00, 0x41, 0x00, 0x42, 0x00, 0x43] && t.flags == 0x03)
      = true := by decide +kernel
theorem test_propDec_none : nextWith (exec (.propDec [0x0D, 0x05, 0x95, 0x0F, 0x00, 0x00]) .reset)
    (fun t => t.res == .property ⟨.none, none, none⟩ && t.obuf == [] && t.flags == 0) = true := by decide +kernel
/-- spec/95 section 4. -/
theorem test_brew : nextWith (.next (buildBrew cfgB 0x01 0x01 [(0x01, 0x24), (0x02, 5), (0x1B, 4)] .reset))
    (fun t => t.obuf == [0x0D, 0x0D, 0x83, 0xF0, 0x01, 0x01, 0x01, 0x24, 0x1B, 0x04, 0x02, 0x05, 0x02, 0x6E] && t.flags == 0) = true := by
  decide +kernel
theorem test_brew_overflow :
    nextWith (.next (buildBrew cfgA 0x01 0x01 ((List.range 125).map fun i => (BitVec.ofNat 8 i, 1)) .reset))
      (fun t => t.obuf.length == 258 && t.obuf.getD 1 0 == 0x01 && t.obuf.drop 256 == [0x80, 0xE7] && t.flags == 0x04) = true := by
  decide +kernel

/-- A session under keys of the test's own making. -/
def session (sess : Sess) : State :=
  { State.reset with
    sess := sess, lanKey := some [0x4B], kSign := some (List.replicate 32 1), kApp := some (List.replicate 32 2),
    ivApp := some (List.replicate 16 3), kDev := some (List.replicate 32 4), ivDev := some (List.replicate 16 5) }
/-- spec/44 R188 and R190: `SSTAT` is `0x80` after the first `SETKEY`, `0x83` after `EXPIRE` in `ACTIVE`. -/
theorem test_setKey : nextWith (exec (.setKey [0x4B]) .reset) (fun t => t.lanKey == some [0x4B] && sstat t == 0x80) = true := by decide
theorem test_setKey_ends_session : nextWith (exec (.setKey [0x4B]) (session .derived))
    (fun t => t.sess == .expired && t.kSign == none && t.ivDev == none && t.lanKey == some [0x4B]) = true := by decide
theorem test_derive_needs_key : nextWith (exec (.derive [] [] [] []) .reset) (fun t => t.status == 0x22 && t.sess == .uninit) = true := by
  decide
/-- The messages of the key derivation (spec/95 section 7, shortened fields): app order and device order. -/
theorem test_derive_order : appMessage ⟨[1], [2], [3], [4]⟩ 0x30 = [1, 2, 3, 4, 0x30] ∧ deviceMessage ⟨[1], [2], [3], [4]⟩ 0x31 = [2, 1, 4, 3, 0x31] := by
  decide
theorem test_expire : nextWith (exec .expire (session .active)) (fun t => sstat t == 0x83 && t.kApp == none) = true := by decide
/-- The keys of spec/95 section 7: the second `ENC`, whose IV is the tail of the first ciphertext. -/
theorem test_enc : nextWith (exec (.enc [0x30, 0x31, 0x32, 0x33, 0x34, 0x35, 0x36, 0x37, 0x38, 0x39, 0x61, 0x62, 0x63, 0x64, 0x65, 0x66])
    { session .active with
      kApp := some [0xc1, 0xc8, 0xaa, 0x52, 0x1c, 0xbe, 0x6e, 0x62, 0xa1, 0x0a, 0x84, 0x97, 0x5b, 0x9d, 0xbc, 0x15,
                    0xe5, 0x9d, 0x46, 0x1f, 0xd6, 0xe2, 0xa2, 0xcf, 0xce, 0x73, 0xa6, 0xc8, 0x4a, 0x5c, 0x28, 0xcf]
      ivApp := some [0x16, 0xaa, 0x49, 0x93, 0x10, 0xdb, 0x79, 0x47, 0x70, 0x5e, 0xaf, 0x94, 0x11, 0x3b, 0xe0, 0xca] })
    (fun t => t.obuf == [0x1f, 0x51, 0x7e, 0x20, 0xab, 0x19, 0x68, 0x84, 0x73, 0xbc, 0x3f, 0x76, 0x33, 0x2e, 0x0c, 0x31] &&
      t.ivApp == some t.obuf && t.sess == .active) = true := by decide +kernel
theorem test_enc_order_of_tests : nextWith (exec (.enc []) .reset) (fun t => t.status == 0x20) = true ∧
    nextWith (exec (.enc []) (session .derived)) (fun t => t.status == 0x02 && t.sess == .derived) = true := by decide
/-- spec/95 section 7: the first `DEC`; eight zero bytes are removed. -/
theorem test_dec : nextWith (exec (.dec [0x65, 0x3f, 0xff, 0x6d, 0xa9, 0xf9, 0x8e, 0xb4, 0xb2, 0xaa, 0x26, 0xdc, 0x56, 0x1c, 0xd8, 0xb1])
    { session .derived with
      kDev := some [0xf0, 0x14, 0x58, 0x68, 0x0f, 0x24, 0x23, 0xad, 0xb1, 0xb9, 0xe0, 0xb9, 0xe1, 0xa1, 0x25, 0xd6,
                    0xda, 0x99, 0x3f, 0x1a, 0x8a, 0x62, 0xce, 0x16, 0xde, 0x03, 0x9f, 0x21, 0xc9, 0x74, 0x03, 0xb3]
      ivDev := some [0x3e, 0x94, 0x65, 0xd4, 0xb2, 0x2d, 0x45, 0xa5, 0x61, 0x14, 0x1b, 0x47, 0x4a, 0xbd, 0xd1, 0x91] })
    (fun t => t.obuf == [0x7B, 0x22, 0x6F, 0x6B, 0x22, 0x3A, 0x31, 0x7D] && t.sess == .active) = true := by decide +kernel
theorem test_dec_bad_length : nextWith (exec (.dec (List.replicate 15 0)) (session .derived))
    (fun t => t.status == 0x21 && t.ivDev == some (List.replicate 16 5) && t.sess == .derived) = true := by decide
/-- spec/44 R183: the published HMAC value for key `Jefe`. -/
theorem test_sign : nextWith (exec (.sign [0x77, 0x68, 0x61, 0x74, 0x20, 0x64, 0x6f, 0x20, 0x79, 0x61, 0x20, 0x77, 0x61, 0x6e, 0x74, 0x20,
      0x66, 0x6f, 0x72, 0x20, 0x6e, 0x6f, 0x74, 0x68, 0x69, 0x6e, 0x67, 0x3f]) { session .active with kSign := some [0x4a, 0x65, 0x66, 0x65] })
    (fun t => t.obuf == [0x5b, 0xdc, 0xc1, 0x46, 0xbf, 0x60, 0x75, 0x4e, 0x6a, 0x04, 0x24, 0x26, 0x08, 0x95, 0x75, 0xc7,
      0x5a, 0x00, 0x3f, 0x08, 0x9d, 0x27, 0x39, 0x83, 0x9d, 0xec, 0x58, 0xb9, 0x64, 0xec, 0x38, 0x43]) = true := by decide +kernel
theorem test_sign_needs_session : nextWith (exec (.sign []) { session .expired with kSign := none }) (fun t => t.status == 0x20) = true := by decide
/-- spec/95 section 6: `foob`, and bytes `FB FF FE`. -/
theorem test_b64e : b64Encode [0x66, 0x6F, 0x6F, 0x62] = [0x5A, 0x6D, 0x39, 0x76, 0x59, 0x67, 0x3D, 0x3D] ∧
    b64Encode [0xFB, 0xFF, 0xFE] = [0x2B, 0x2F, 0x2F, 0x2B] := by decide
/-- `Zh==` has non-zero unused bits and decodes; `Z===` and `Zm9v\n` do not. -/
theorem test_b64d : b64Decode [0x5A, 0x68, 0x3D, 0x3D] = some [0x66] ∧ b64Decode [0x5A, 0x3D, 0x3D, 0x3D] = none ∧
    b64Decode [0x5A, 0x6D, 0x39, 0x76, 0x0A] = none := by decide
theorem test_b64d_raises : nextWith (exec (.b64d [0x5A]) .reset) (fun t => t.status == 0x30 && t.obuf == []) = true := by decide
theorem test_hexe : nextWith (exec (.hexe [0x0D, 0xFA]) .reset) (fun t => t.obuf == [0x30, 0x64, 0x66, 0x61]) = true := by decide
theorem test_hexd : nextWith (exec (.hexd [0x30, 0x44, 0x66, 0x61]) .reset) (fun t => t.obuf == [0x0D, 0xFA]) = true ∧
    nextWith (exec (.hexd [0x30, 0x78]) .reset) (fun t => t.status == 0x31 && t.obuf == []) = true := by decide

/-- `frame.monitor` delivers the record of `MON_DEC` on its bytes; `frame.property` the property record. -/
theorem test_frameMonitor : nextWith (exec (.frameMonitor ⟨0xD0, 0x75, 0x0F, 0x02, #v[0xA1, 0xB2], #v[0xC3, 0xC4], 0x07, 0x0B, 0x32, #v[0xD8, 0xD9],
    #v[0xE1, 0xE2, 0xE3], 0xBBEE, []⟩) .reset) (fun t => t.res == .monitor monRecord) = true := by decide +kernel
theorem test_frameProperty : nextWith (exec (.frameProperty 0x05 0x950F [] 0x5B12) .reset)
    (fun t => t.res == .property ⟨.frame, some 0x950F, some 0x05⟩ && t.flags == 0x03) = true := by decide +kernel

/-- The published SHA-256 of no bytes (R174) and the first expanded key words of spec/95 section 6. -/
theorem test_sha256_empty : (sha256 []).take 4 = [0xe3, 0xb0, 0xc4, 0x42] := by decide +kernel
theorem test_keyExpand : (keyExpand ((List.range 32).map (BitVec.ofNat 8))).getD 8 ⟨0, 0, 0, 0⟩ = ⟨0xa5, 0x73, 0xc2, 0x9f⟩ ∧
    (keyExpand ((List.range 32).map (BitVec.ofNat 8))).getD 59 ⟨0, 0, 0, 0⟩ = ⟨0x6d, 0x68, 0xde, 0x36⟩ := by decide +kernel
/-- Every S-box entry is undone by the inverse table (R204), and `57 · 83 = C1` in GF(2^8). -/
theorem test_sbox_inverse : (allTags.all fun x => invSbox (sbox x) == x) = true := by decide +kernel
theorem test_gmul : gmul 0x57 0x83 = 0xC1 := by decide

/-- The monitor view's worked example (R262). -/
def viewProfile : MonitorProfile where
  flags := [([0x77], ⟨.alarms, 0, 0, false⟩), ([0x64], ⟨.switches, 1, 3, true⟩), ([0x62], ⟨.alarms, 4, 0, false⟩)]
  enums := [((.status, 7), [0x52])]
  predicates := [([0x69], .equals .status 7), ([0x75], .notInSet .action [0]), ([0x74], .flagFalse [0x77]), ([0x72], .bitSet .alarms 3 7)]
/-- R254: a name that is both a flag and a predicate rejects the profile, and then every name is `not_found` (R302). -/
def clashingProfile : MonitorProfile := { viewProfile with predicates := ([0x77], .equals .status 7) :: viewProfile.predicates }
theorem test_view_rejected_profile : profileAccepted viewProfile = true ∧ profileAccepted clashingProfile = false ∧
    viewLookup (loadProfile (some clashingProfile)) (some monRecord) [0x64] = .notFound ∧
    viewLookup (loadProfile (some viewProfile)) (some monRecord) [0x64] = .flag (some true) ∧
    viewLookup (loadProfile none) (some monRecord) [0x64] = .notFound := by decide +kernel
theorem test_view : viewFlag viewProfile (some monRecord) [0x77] = some true ∧ viewFlag viewProfile (some monRecord) [0x64] = some true ∧
    viewFlag viewProfile (some monRecord) [0x62] = none ∧ viewEnum viewProfile (some monRecord) .status = some [0x52] ∧
    viewEnum viewProfile (some monRecord) .action = some [0x31, 0x31] ∧ viewPredicate viewProfile (some monRecord) [0x69] = some true ∧
    viewPredicate viewProfile (some monRecord) [0x75] = some true ∧ viewPredicate viewProfile (some monRecord) [0x74] = some false ∧
    viewPredicate viewProfile (some monRecord) [0x72] = some true ∧ viewLookup viewProfile (some monRecord) [0x6E] = .notFound := by
  decide +kernel

/-! ## Witnesses: states and operands that meet the hypotheses of the obligations, each clause at a boundary of its range -/

theorem witness_DecodeOfEncodeIsTheInstruction : (Instr.crc16 longest).wellFormed = true ∧
    (Instr.brew 0xFF 0 [(0, 0xFFFF), (0xFF, 0)]).wellFormed = true ∧ (Instr.frameProperty 0 0 [] 0).wellFormed = true :=
  ⟨by simpa [Instr.wellFormed, operandFits] using test_longest_fits, by decide, by decide⟩
theorem witness_NoDescriptorIsAPrefixOfAnother :
    (Instr.derive [1] [] [2] []).wellFormed = true ∧ isCommand (.derive [1] [] [2] []) = true ∧ ([0x00] : Bytes) ≠ [] ∧
    ∃ p q, encode (.derive [1] [] [2] []) = p ++ q ∧ q ≠ [] := by
  refine ⟨by decide, by decide, by decide, (encode (.derive [1] [] [2] [])).take 10, [0x00], by decide, by decide⟩
/-- A descriptor that is no instruction's own encoding: entries out of order, one tag twice. -/
theorem witness_NoDescriptor_noncanonical : decode [0x21, 0x00, 0x03, 0x1B, 0, 1, 0x02, 0, 2, 0x1B, 0, 3] = .ok (.tlvEnc [(0x02, 2), (0x1B, 3)]) ∧
    (List.replicate 65535 ((0, 0) : Byte × Half)).length < 65536 := ⟨by decide, by rw [List.length_replicate]; decide⟩
theorem witness_InvalidDescriptorsAndLongOperandsRaise :
    ((∃ s : State, s.port = [.descriptor [0x10, 0x00]]) ∧ ∀ i, decode [0x10, 0x00] ≠ .ok i) ∧
    (isCommand (.crc16 tooLong) = true ∧ tooLong ∈ bytesOperands (.crc16 tooLong) ∧ Config.maxOperand < tooLong.length) ∧
    decode [0x50, 0x00, 0x00] = .ok (.setKey []) ∧ [] ∈ bytesOperands (.setKey []) :=
  ⟨⟨⟨{ State.reset with port := [.descriptor [0x10, 0x00]] }, rfl⟩, fun i h => by cases h⟩,
    ⟨by simp [isCommand, encodeOffer], by simp [bytesOperands], test_tooLong_does_not_fit⟩, by decide, by decide⟩
theorem witness_ReservedOpcodesRaiseBadCmd : reservedOpcode 0x02 = true ∧ reservedOpcode 0x0F = true ∧ reservedOpcode 0x13 = true ∧
    reservedOpcode 0x74 = true ∧ reservedOpcode 0xFF = true ∧ reservedOpcode 0x73 = false := by decide
theorem witness_StepRunsTheOldestOffer : ∃ s : State, s.port = .descriptor [0x11] :: [.descriptor [0x52]] ∧
    decodeOffer (.descriptor [0x11]) = .ok .crcInit :=
  ⟨{ State.reset with port := [.descriptor [0x11], .descriptor [0x52]] }, rfl, by decide⟩
theorem witness_ResetCommandClearsTheLanKey : Fits [] ∧ Fits longest ∧ ∃ s : State, s.port = [.descriptor [0x01, 0x00]] :=
  ⟨by decide, test_longest_fits, { State.reset with port := [.descriptor [0x01, 0x00]] }, rfl⟩
theorem witness_NopClearsTheResults : ∃ s : State, s.port = [.descriptor [0x00, 0x00]] :=
  ⟨{ State.reset with port := [.descriptor [0x00, 0x00]] }, rfl⟩

/-- A session in the form `DERIVE` leaves it, under an empty LAN key and empty nonces, with `EXPIRE` offered. -/
def derivedState (sess : Sess) : State :=
  let x := deriveSecrets [] ⟨[], [], [], []⟩
  { State.reset with
    port := [.descriptor [0x52]], sess := sess, lanKey := some [], kSign := some x.kSign, kApp := some x.kApp, ivApp := some x.ivApp,
    kDev := some x.kDev, ivDev := some x.ivDev }
/-- A state without secrets, after a session, with results of an earlier command. -/
def expiredState : State :=
  { State.reset with
    port := [.descriptor [0x52], .descriptor [0x00]], sess := .expired, lanKey := some [1], crc := 7, obuf := [1], status := 0x21, flags := 3,
    res := .params [(1, 2), (3, 4)] }
theorem expiredState_inv : Inv expiredState :=
  ⟨⟨⟨rfl, rfl, rfl, rfl, rfl⟩, fun _ => (by decide), fun h => by cases h⟩,
    ⟨fun k h => (by cases h; decide), fun b h => (by cases h), fun b h => (by cases h), fun b h => (by cases h), fun b h => (by cases h),
      fun b h => by cases h⟩,
    by decide, ⟨.authFail, rfl⟩, by unfold FlagsLegal; decide, show ParamMap.Sorted [(1, 2), (3, 4)] by decide⟩

theorem witness_EveryStepKeepsTheSessionInvariants : SessionInv (derivedState .derived) ∧ (∃ t, step (derivedState .derived) = .next t) ∧
    SessionInv (derivedState .active) ∧ SessionInv expiredState :=
  ⟨⟨⟨rfl, rfl, rfl, rfl, rfl⟩, fun _ => by simp [derivedState],
      fun _ => ⟨[], ⟨[], [], [], []⟩, rfl, rfl, rfl, rfl, fun _ => ⟨rfl, rfl⟩⟩⟩, ⟨_, rfl⟩,
    ⟨⟨rfl, rfl, rfl, rfl, rfl⟩, fun _ => by simp [derivedState], fun _ => ⟨[], ⟨[], [], [], []⟩, rfl, rfl, rfl, rfl, fun h => by cases h⟩⟩,
    expiredState_inv.1⟩
theorem witness_EveryStepKeepsTheRegisterWidths : WidthInv (session .active) ∧ ∃ t, step (session .active) = .next t :=
  ⟨⟨fun k h => (by cases h; decide), fun b h => (by cases h; decide), fun b h => (by cases h; decide), fun b h => by cases h; decide,
      fun b h => (by cases h; decide), fun b h => by cases h; decide⟩, _, rfl⟩
theorem witness_EveryStepKeepsTheResultForm : ResultInv expiredState ∧ ∃ t, step expiredState = .next t := ⟨expiredState_inv.2.2, _, rfl⟩
theorem witness_RunsFromGoodStatesNeverStop : Inv expiredState := expiredState_inv
theorem witness_CommandsSucceedOrChangeOnlyResults : SessionInv expiredState := expiredState_inv.1
theorem witness_StatusesOfEachCommand : (∀ b ∈ bytesOperands (.enc []), Fits b) ∧ (∃ t, exec (.enc []) expiredState = .next t) :=
  ⟨by decide, _, rfl⟩
theorem witness_OnlyCrcCommandsWriteCrc : writesCrc (.sign [1]) = false ∧ ∃ t, exec (.sign [1]) (session .active) = .next t := ⟨rfl, _, rfl⟩
theorem witness_SessionRegistersHaveTheirWriters : usesSession .nop = false ∧ (∃ t, exec .nop (session .active) = .next t) ∧
    (∃ t, exec (.sign [1]) (session .active) = .next t) ∧ (∃ t, exec (.enc [1]) (session .active) = .next t) ∧
    (∃ t, exec (.dec (List.replicate 16 0)) (session .active) = .next t) ∧ Instr.expire ≠ .reset ∧ (∀ k, Instr.expire ≠ .setKey k) :=
  ⟨rfl, ⟨_, rfl⟩, ⟨_, rfl⟩, ⟨_, rfl⟩, ⟨_, rfl⟩, by decide, fun k h => by cases h⟩
theorem witness_HeldOffersAreNeverDropped : expiredState.port.length = 2 ∧ ∃ t, step expiredState = .next t := ⟨rfl, _, rfl⟩
theorem witness_SecretsShowOnlyThroughCipherAndSign : (∀ p, Instr.expire ≠ .enc p) ∧ (∀ c, Instr.expire ≠ .dec c) ∧
    (∀ p, Instr.expire ≠ .sign p) ∧ SameButSecrets (session .active) { session .active with lanKey := some [9], kApp := some [8] } :=
  ⟨fun p h => (by cases h), fun p h => (by cases h), fun p h => (by cases h), rfl, rfl, rfl, rfl, rfl, rfl, rfl, rfl⟩
theorem witness_SessFollowsItsTransitionTable :
    (SessionInv (derivedState .derived) ∧ ∃ t, exec (.enc [1]) (derivedState .derived) = .next t) ∧
    (SessionInv (derivedState .active) ∧ ∃ t, exec (.dec []) (derivedState .active) = .next t) ∧
    (SessionInv expiredState ∧ ∃ t, exec (.derive [] [] [] []) expiredState = .next t) ∧ (∀ b ∈ bytesOperands (.enc [1]), Fits b) :=
  ⟨⟨witness_EveryStepKeepsTheSessionInvariants.1, _, rfl⟩, ⟨witness_EveryStepKeepsTheSessionInvariants.2.2.1, _, rfl⟩,
    ⟨expiredState_inv.1, _, rfl⟩, by decide⟩

/-- For `CrcCommandsWriteRegisterAndResults`, `TlvCommandsDeliverTheCodec` and the text commands: the shortest and the longest operand. -/
theorem witness_operands_that_fit : Fits [] ∧ Fits longest := ⟨by decide, test_longest_fits⟩
theorem witness_StreamedCrcEqualsOneShot : Fits ([0x31] ++ [0x32]) ∧ Fits ([] ++ longest) := ⟨by decide, test_longest_fits⟩
theorem witness_SingleBitFlipChangesTheCrc : 0 < ([0xFF] : Bytes).length ∧ 7 < 8 := by decide
theorem witness_TlvDecodeReadsEntriesAndDropsATruncatedTail : TooShortForAnEntry cfgB [] ∧ TooShortForAnEntry cfgB [0x0F] ∧
    TooShortForAnEntry cfgB [0x0F, 0x00] := ⟨.inl rfl, .inr (.inl ⟨_, rfl⟩), .inr (.inr ⟨0x0F, 0x00, rfl, by decide⟩)⟩
/-- For `TlvRoundTrip`, `TlvConverseHoldsForEncodingsOnly`, `TlvEncodingLength`, `BrewBuildsItsFrame`. -/
theorem witness_mappings : ParamMap.Sorted [(0x01, 255), (0x0F, 0xFFFF)] ∧ fitsTags cfgB [(0x01, 255), (0x0F, 0xFFFF)] = true ∧
    fitsTags cfgA [(0x0F, 0xFFFF)] = false := by decide
theorem witness_TlvOrderIsCanonical : cfgB.priority.Nodup ∧ ParamMap.Sorted [(0x01, 36), (0x1B, 4), (0xFF, 5)] := by decide
/-- A table that D35 allows, with an entry: for `TagNamesAreDistinct` and `TlvCommandsDeliverTheCodec`. -/
theorem witness_NamesMeetD35 : NamesMeetD35 ⟨[], [], [(1, [0x63])]⟩ ∧ tableEntry ⟨[], [], [(1, [0x63])]⟩ 1 = some [0x63] := by
  have h : ∀ t n, tableEntry ⟨[], [], [(1, [0x63])]⟩ t = some n → t = 1 ∧ n = [0x63] := by
    intro t n e
    by_cases ht : t = 1
    · subst ht; exact ⟨rfl, (Option.some.inj e).symm⟩
    · have : tableEntry ⟨[], [], [(1, [0x63])]⟩ t = none := by
        simp only [tableEntry, List.lookup_cons, List.lookup_nil, beq_eq_false_iff_ne.2 ht]
      rw [this] at e; cases e
  refine ⟨⟨fun t n e => ?_, fun t u n a b => (h t n a).1.trans (h u n b).1.symm⟩, rfl⟩
  rw [(h t n e).2]
  exact ⟨by decide, by decide, fun x y _ _ => by simp⟩
theorem witness_TagNamesAreDistinct : tagName cfgA 0xFF = tagName cfgA 0xFF ∧ tableEntry cfgA 0xFF = none := ⟨rfl, rfl⟩

theorem witness_MonitorTestsInOrder :
    (([0xD0, 0x12, 0x75] : Bytes).length < 4) ∧
    (4 ≤ ([0xD0, 0x02, 0, 0] : Bytes).length ∧ (([0xD0, 0x02, 0, 0] : Bytes).getD 1 0).toNat < 3) ∧
    (4 ≤ ([0xD0, 0x04, 0, 0] : Bytes).length ∧ ([0xD0, 0x04, 0, 0] : Bytes).length < (([0xD0, 0x04, 0, 0] : Bytes).getD 1 0).toNat + 1) ∧
    (3 ≤ (([0xD0, 0x03, 0, 0] : Bytes).getD 1 0).toNat ∧ crc16 (([0xD0, 0x03, 0, 0] : Bytes).take 2) ≠ (([0xD0, 0x03, 0, 0] : Bytes).drop 2).take 2) ∧
    (crc16 (([0xD0, 0x03, 0xA1, 0x84] : Bytes).take 2) = (([0xD0, 0x03, 0xA1, 0x84] : Bytes).drop 2).take 2 ∧ (3 : Nat) ≠ 18) := by
  decide +kernel
/-- A monitor frame of spec/95 section 5 as fields, with the given trailing bytes. -/
def monFields (z : Bytes) : MonitorFrame :=
  ⟨0xD0, 0x75, 0x0F, 0x02, #v[0xA1, 0xB2], #v[0xC3, 0xC4], 0x07, 0x0B, 0x32, #v[0xD8, 0xD9], #v[0xE1, 0xE2, 0xE3], 0xBBEE, z⟩
theorem witness_MonitorFrameDeliversItsRecord : (∀ z ∈ [[], [1, 2, 3], [1, 2, 3, 4]], Fits (encode (.frameMonitor (monFields z))) ∧
    [hi8 (monFields z).crc, lo8 (monFields z).crc] = crc16 ((encode (.frameMonitor (monFields z))).take 17)) ∧
    (monFields [1, 2, 3]).trailing.length < 4 ∧ (monFields [1, 2, 3, 4]).trailing = 1 :: 2 :: 3 :: 4 :: [] := by decide +kernel
theorem witness_MonitorFrameWithAFlippedBitNeverDecodes : monFrame.length = 19 ∧ monitorCheck monFrame = none ∧ 18 < 19 ∧ 7 < 8 := by
  decide +kernel
theorem witness_RecipeFramesDecodeLeniently :
    ([] : Bytes).length + 8 ≤ Config.maxOperand ∧ (List.replicate 65527 (0 : Byte)).length + 8 ≤ Config.maxOperand ∧
    (Fits [0xD0, 0x05, 0xA6, 0xF0, 0, 0, 0] ∧ (∀ len prof bev tlv c₁ c₀, ([0xD0, 0x05, 0xA6, 0xF0, 0, 0, 0] : Bytes) ≠
      [0xD0, len, 0xA6, 0xF0, prof, bev] ++ tlv ++ [c₁, c₀]) ∧
      ∀ len bev tlv c₁ c₀, ([0xD0, 0x05, 0xA6, 0xF0, 0, 0, 0] : Bytes) ≠ [0xD0, len, 0xB0, 0xF0, bev] ++ tlv ++ [c₁, c₀]) := by
  refine ⟨by decide, by rw [List.length_replicate]; decide, by decide, fun len prof bev tlv c₁ c₀ h => ?_, fun len bev tlv c₁ c₀ h => ?_⟩
  · have := congrArg List.length h
    simp only [List.length_append, List.length_cons, List.length_nil] at this
    omega
  · simp at h
theorem witness_PropertyFramesDecodeLeniently : ([] : Bytes).length + 6 ≤ Config.maxOperand ∧ ([0xD0, 0, 0, 0, 0] : Bytes).length < 6 ∧
    ([0x0D, 0, 0, 0, 0, 0] : Bytes).head? ≠ some 0xD0 := by decide
theorem witness_LenientFrameWithAFlippedBitReportsBadCrc : crcOk [0xD0, 0x05, 0x95, 0x0F, 0x5B, 0x12] 6 = true ∧ crcOk [0x1D, 0x0F] 2 = true ∧
    5 < ([0xD0, 0x05, 0x95, 0x0F, 0x5B, 0x12] : Bytes).length := by decide +kernel
theorem witness_DecodersOnABrewFrame : ParamMap.Sorted [(0, 1), (1, 1), (2, 1), (3, 1), (9, 1)] ∧
    (tlvEncode cfgB [(0, 1), (1, 1), (2, 1), (3, 1), (9, 1)]).length + 7 = 18 ∧ (tlvEncode cfgB []).length + 7 ≤ 255 := by decide +kernel

theorem witness_sessions : (session .derived).sess = .derived ∧ (session .active).sess = .active ∧ State.reset.sess = .uninit ∧
    expiredState.sess = .expired ∧ (session .active).lanKey ≠ none ∧ State.reset.lanKey = none ∧
    (∃ k, (session .active).kSign = some k) ∧ (∃ k v, (session .active).kApp = some k ∧ (session .active).ivApp = some v) ∧
    (∃ k v, (session .active).kDev = some k ∧ (session .active).ivDev = some v) :=
  ⟨rfl, rfl, rfl, rfl, by decide, rfl, ⟨_, rfl⟩, ⟨_, _, rfl, rfl⟩, ⟨_, _, rfl, rfl⟩⟩
theorem witness_SetKeyAndExpireEndALiveSession : (∃ t, exec (.setKey longest) State.reset = .next t) ∧
    ∃ t, exec .expire (session .active) = .next t := by
  refine ⟨?_, _, rfl⟩
  rcases execSetKey_cases longest State.reset with ⟨-, h⟩ | ⟨-, h⟩ <;> exact ⟨_, h⟩
theorem witness_EncEncryptsAndRotatesTheAppIv : Fits [0x41] ∧ ([0x41] : Bytes) ≠ [] ∧ Fits longest := ⟨by decide, by decide, test_longest_fits⟩
theorem witness_DecDecryptsAndRotatesTheDeviceIv : ((List.replicate 16 (0 : Byte)).length ≠ 0 ∧ (List.replicate 16 (0 : Byte)).length % 16 = 0) ∧
    ([] : Bytes).length = 0 ∧ (List.replicate 15 (0 : Byte)).length % 16 ≠ 0 := by decide
theorem witness_AesDecryptInvertsEncrypt : (List.replicate 32 (0 : Byte)).length = 32 ∧ (List.replicate 16 (0 : Byte)).length = 16 := by decide
theorem witness_MessageRoundTrip : ([1] : Bytes) ≠ [] ∧ (0 : Byte) ∉ ([1] : Bytes) ∧ ([1, 0] : Bytes)[1]? = some 0 ∧
    (∀ j < 1, ([1, 0] : Bytes)[j]? ≠ some 0) := by decide
theorem witness_WrongIvSpoilsOnlyTheFirstBlock : List.replicate 16 (0 : Byte) ≠ List.replicate 16 1 ∧ (List.replicate 16 (0 : Byte)).length % 16 = 0 := by
  decide
theorem witness_TextCommandsDeliverOrRaise : b64Decode [] = some [] ∧ b64Decode [0x3D, 0x3D, 0x3D, 0x3D] = none ∧ hexDecode [] = some [] ∧
    hexDecode [0x30] = none := by decide
/-- For `MalformedTextsExactly`. -/
theorem witness_MalformedTextsExactly : 63 < 64 ∧ b64Decode [0x5A, 0x67, 0x3D, 0x3D] = some [0x66] ∧ hexDecode [0x46, 0x66] = some [0xFF] ∧
    0 < ([0xFF] : Bytes).length := by decide
theorem witness_HostReadsOfTheBuffer : 0 < olen expiredState ∧ olen expiredState ≤ 1 := by decide
theorem witness_ResHoldsOnlyTheLastCommandsFields : (∃ t, exec .crcInit expiredState = .next t ∧ t.status = 0x00) ∧
    (∃ t, exec .expire expiredState = .next t) ∧ (∃ t, exec (.hexd [0x30]) expiredState = .next t ∧ t.status ∉ [0x00, 0x10, 0x11, 0x12, 0x13]) ∧
    (∃ t, exec (.monDec []) expiredState = .next t ∧ t.status ∈ [0x10, 0x11, 0x12, 0x13]) :=
  ⟨⟨_, rfl, rfl⟩, ⟨_, rfl⟩, ⟨_, rfl, by decide⟩, _, rfl, by decide⟩
/-- Frames with 3 and with 4 trailing bytes, frames of no recipe format, and frames that are no property frames. -/
theorem witness_ResHolds_frames : (∀ z ∈ [[], [1, 2, 3], [1, 2, 3, 4]], Fits (monFrame ++ z) ∧ 19 ≤ (monFrame ++ z).length ∧
    (monFrame ++ z).getD 1 0 = 18 ∧ crc16 ((monFrame ++ z).take 17) = ((monFrame ++ z).drop 17).take 2) ∧
    (¬ IsProfileFrame [0x0D] ∧ ¬ IsDefaultFrame [0x0D]) ∧ ([0xD0, 0, 0, 0, 0] : Bytes).length < 6 := by
  refine ⟨by decide +kernel, ⟨fun h => ?_, fun h => ?_⟩, by decide⟩
  · obtain ⟨_, _, _, _, _, _, h⟩ := h; simp at h
  · obtain ⟨_, _, _, _, _, h⟩ := h; simp at h
theorem witness_MonitorViewLaws : viewProfile.flags.lookup [0x77] = some ⟨.alarms, 0, 0, false⟩ ∧
    viewProfile.flags.lookup [0x64] = some ⟨.switches, 1, 3, true⟩ ∧ 1 < 2 ∧ 3 < 4 ∧ 7 < 8 ∧ viewProfile.flags.lookup [0x6E] = none ∧
    profileAccepted viewProfile = true ∧ profileAccepted clashingProfile = false := by decide
/-- A record whose status has an enum name and whose action has none, and a name that is a predicate only. -/
theorem witness_MonitorViewLaws_values : viewCode (some monRecord) .status = some 7 ∧ viewProfile.enums.lookup (.status, 7) = some [0x52] ∧
    viewCode (some monRecord) .action = some 11 ∧ viewProfile.enums.lookup (.action, 11) = none ∧ viewProfile.flags.lookup [0x77] ≠ none ∧
    viewProfile.flags.lookup [0x69] = none ∧ viewProfile.predicates.lookup [0x69] = some (.equals .status 7) ∧
    viewProfile.predicates.lookup [0x6E] = none := by decide
theorem witness_WireRowsDeliverWhatTheirRulesSay : ([] : Bytes).length + 8 ≤ Config.maxOperand ∧ ParamMap.Sorted [] ∧
    (tlvEncode Config.tables []).length + 7 ≤ 255 ∧ Fits (encode (.frameMonitor (monFields []))) := by
  have h : tlvEncode Config.tables [] = [] := by
    have : hasTag [] = fun _ => false := rfl
    simp [tlvEncode, tlvOrder, this]
  rw [h]
  decide

end Sys2Proof.Machine
end

section
/-! PROOFS. How long the results of the pure functions are (spec/44 R173, R180; spec/45 R220 to R228, R242 to R246; spec/41 R113; spec/43 R161),
and that decoding TLV bytes gives a canonical mapping (spec/10_state R22). -/

namespace Sys2Proof.Machine

/-! ## Hash and cipher -/

@[simp] theorem length_wordBytes (w : Word) : (wordBytes w).length = 4 := rfl

@[simp] theorem length_digest (v : HashValue) : (digest v).length = 32 := by simp [digest]

@[simp] theorem length_sha256 (m : Bytes) : (sha256 m).length = 32 := length_digest _

@[simp] theorem length_hmac (key msg : Bytes) : (hmac key msg).length = 32 := length_sha256 _

@[simp] theorem length_nestedHmac (lanKey m : Bytes) : (nestedHmac lanKey m).length = 32 := length_hmac _ _

@[simp] theorem length_aesState_bytes (x : AesState) : x.bytes.length = 16 := rfl

@[simp] theorem length_blocks {α : Type} (size n : Nat) (l : List α) : (blocks size n l).length = n := by
  induction n generalizing l with
  | zero => rfl
  | succ n ih => simp [blocks, ih]

@[simp] theorem length_textBlocks (p : Bytes) : (textBlocks p).length = p.length / 16 := by simp [textBlocks]

@[simp] theorem length_cbcEncBlocks (w : List Column) (prev : AesState) (ps : List AesState) :
    (cbcEncBlocks w prev ps).length = ps.length := by
  induction ps generalizing prev with
  | nil => rfl
  | cons p ps ih => simp [cbcEncBlocks, ih]

@[simp] theorem length_cbcDecBlocks (w : List Column) (prev : AesState) (cs : List AesState) :
    (cbcDecBlocks w prev cs).length = cs.length := by
  induction cs generalizing prev with
  | nil => rfl
  | cons c cs ih => simp [cbcDecBlocks, ih]

/-- CBC encryption delivers every whole block of its input (R220). -/
theorem length_cbcEncrypt (k v p : Bytes) : (cbcEncrypt k v p).length = 16 * (p.length / 16) := by
  simp [cbcEncrypt, List.length_flatMap, Nat.mul_comm]

/-- CBC decryption delivers every whole block of its input (R228). -/
theorem length_cbcDecrypt (k v c : Bytes) : (cbcDecrypt k v c).length = 16 * (c.length / 16) := by
  simp [cbcDecrypt, List.length_flatMap, Nat.mul_comm]

/-- Zero padding goes to the next 16-byte boundary (R222). -/
theorem length_zeroPad (p : Bytes) : (zeroPad p).length = 16 * ((p.length + 15) / 16) := by
  simp only [zeroPad, List.length_append, List.length_replicate]
  omega

/-- A ciphertext is the padded plaintext's length (R220, R222). -/
theorem length_msgEncrypt (k v p : Bytes) : (msgEncrypt k v p).1.length = 16 * ((p.length + 15) / 16) := by
  simp only [msgEncrypt, length_cbcEncrypt, length_zeroPad]
  omega

/-- Unpadding only shortens (R226). -/
theorem length_msgDecrypt_le (k v c : Bytes) : (msgDecrypt k v c).1.length ≤ c.length :=
  calc (zeroUnpad (cbcDecrypt k v c)).length
      ≤ (cbcDecrypt k v c).length := (List.takeWhile_sublist _).length_le
    _ = 16 * (c.length / 16) := length_cbcDecrypt k v c
    _ ≤ c.length := Nat.mul_div_le _ _

/-- The rotated IV is one block when there is a block to take it from (R221). -/
theorem length_nextIv (c : Bytes) (h : 16 ≤ c.length) : (nextIv c).length = 16 := by
  simp only [nextIv, List.length_drop]
  omega

/-! ## Text forms -/

@[simp] theorem length_hexEncode (b : Bytes) : (hexEncode b).length = 2 * b.length := by
  simp [hexEncode, hexByte, List.length_flatMap, Nat.mul_comm]

/-- Decoding hex halves the length (R245). -/
theorem length_hexDecode (x out : Bytes) (h : hexDecode x = some out) : 2 * out.length = x.length := by
  induction x using hexDecode.induct generalizing out with
  | case1 => cases h; rfl
  | case2 a => cases h
  | case3 a b rest hi lo out' hr hb ha ih =>
    simp only [hexDecode, ha, hb, hr, Option.some.injEq] at h
    simp [← h, ← ih out' hr, Nat.mul_add]
  | case4 a b rest hno ih =>
    unfold hexDecode at h
    split at h
    · next hi lo out' ha hb hr => exact (hno hi lo out' ha hb hr).elim
    · cases h

/-- A full base64 group gives three bytes (R243). -/
theorem length_b64Full (p q r s : Byte) (out : Bytes) (h : b64Full p q r s = some out) : out.length = 3 := by
  unfold b64Full at h
  split at h
  · cases h; rfl
  · cases h

/-- The last base64 group gives at most three bytes (R243). -/
theorem length_b64Last_le (p q r s : Byte) (out : Bytes) (h : b64Last p q r s = some out) : out.length ≤ 3 := by
  unfold b64Last at h
  split_ifs at h
  · split at h <;> cases h
    simp
  · split at h <;> cases h
    simp
  · exact (length_b64Full p q r s out h).le

/-- Decoding base64 never lengthens a text (R243). -/
theorem length_b64Decode_le (x out : Bytes) (h : b64Decode x = some out) : out.length ≤ x.length := by
  induction x using b64Decode.induct generalizing out with
  | case1 => cases h; rfl
  | case2 p q r s => exact (length_b64Last_le p q r s out h).trans (by simp)
  | case3 p q r s rest hne head out' hr hg ih =>
    rw [b64Decode.eq_3 p q r s rest hne, hg, hr] at h
    cases h
    have hhead := length_b64Full p q r s head hg
    have htail := ih out' hr
    simp only [List.length_append, List.length_cons]
    omega
  | case4 p q r s rest hne hno ih =>
    rw [b64Decode.eq_3 p q r s rest hne] at h
    split at h
    · next head out' hg hr => exact (hno head out' hg hr).elim
    · cases h
  | case5 x h1 h2 h3 => simp [b64Decode.eq_4 x h1 h2 h3] at h

/-! ## TLV -/

@[simp] theorem mem_allTags (t : Byte) : t ∈ allTags :=
  List.mem_map.2 ⟨t.toNat, List.mem_range.2 t.isLt, by simp⟩

@[simp] theorem length_allTags : allTags.length = 256 := by simp [allTags]

theorem nodup_allTags : allTags.Nodup := by
  refine List.nodup_range.map_on fun a ha b hb hab => ?_
  have hmod : a % 256 = b % 256 := congrArg BitVec.toNat hab
  rwa [Nat.mod_eq_of_lt (List.mem_range.1 ha), Nat.mod_eq_of_lt (List.mem_range.1 hb)] at hmod

/-- No tag is encoded twice (R119). -/
theorem nodup_tlvOrder (c : TlvTables) (m : ParamMap) : (tlvOrder c m).Nodup := by
  have hprio : (priorityTags c).Nodup := firstOccurrences_nodup _
  refine (hprio.filter _).append (nodup_allTags.filter _) fun t hp hrest => ?_
  have hin : t ∈ priorityTags c := List.mem_of_mem_filter hp
  simp [hin] at hrest

theorem length_tlvEntry_le (c : TlvTables) (t : Byte) (v : Half) : (tlvEntry c t v).length ≤ 3 := by
  unfold tlvEntry
  split <;> simp

/-- `TLV_ENC` delivers at most 256 entries of at most 3 bytes, whatever the mapping (R114). -/
theorem length_tlvEncode_le (c : TlvTables) (m : ParamMap) : (tlvEncode c m).length ≤ 768 := by
  have hcount : (tlvOrder c m).length ≤ 256 := by
    simpa using ((nodup_tlvOrder c m).subperm fun t _ => mem_allTags t).length_le
  have hentries := List.sum_le_card_nsmul ((tlvOrder c m).map fun t => (tlvEntry c t ((m.get? t).getD 0)).length) 3 (by
    intro n hn
    obtain ⟨t, -, rfl⟩ := List.mem_map.1 hn
    exact length_tlvEntry_le _ _ _)
  rw [List.length_map, smul_eq_mul] at hentries
  rw [tlvEncode, List.length_flatMap]
  omega

/-- A brew frame is its TLV bytes and 8 more (R67, R161). -/
theorem length_brewFrame (bev trig : Byte) (tlv : Bytes) : (brewFrame bev trig tlv).length = tlv.length + 8 := by
  simp [brewFrame, crc16, halfBytes]

/-- A tag's name fits the output buffer (R17, R116). -/
theorem length_tagName_le (c : TlvTables) (t : Byte) : (tagName c t).length ≤ Config.obufSize := by
  unfold tagName
  cases hn : namedTag c t with
  | none => simp [fallbackName, hexByte, Config.obufSize]
  | some n =>
    unfold namedTag at hn
    split at hn
    · cases hn
    · split at hn
      · next hadm =>
        cases hn
        simp only [nameAdmissible, Bool.and_eq_true, decide_eq_true_eq] at hadm
        exact hadm.1.2
      · cases hn

/-- The decoding loop keeps the canonical form (R22, R118). -/
theorem tlvDecodeFrom_sorted (c : TlvTables) (b : Bytes) (m : ParamMap) (h : m.Sorted) : (tlvDecodeFrom c b m).Sorted := by
  induction b, m using tlvDecodeFrom.induct c with
  | case1 t v m hw lo rest ih =>
    rw [tlvDecodeFrom, if_pos hw]
    exact ih (ParamMap.sorted_set _ _ _ h)
  | case2 t v m hw => rwa [tlvDecodeFrom, if_pos hw]
  | case3 t v rest m hw ih =>
    unfold tlvDecodeFrom
    rw [if_neg hw]
    exact ih (ParamMap.sorted_set _ _ _ h)
  | case4 b m hshort =>
    unfold tlvDecodeFrom
    split
    · next t v rest => exact (hshort t v rest rfl).elim
    · exact h

theorem tlvDecode_sorted (c : TlvTables) (b : Bytes) : (tlvDecode c b).Sorted :=
  tlvDecodeFrom_sorted c b [] List.Pairwise.nil

end Sys2Proof.Machine
end

section
/-! PROOFS. What every instruction does to the state, said once. An instruction outside the session families reads at most `CRC` and writes
at most `CRC` and the four results (`EndsPlainly`); each of the seven session instructions ends in one of three ways. However an instruction
ends, its results have the form of spec/10_state R17 to R22 and spec/60_exceptions R270, R271 (`EndsClean`). -/

namespace Sys2Proof.Machine

/-! ## The form of the results -/

/-- The statuses that can leave something in `RES`: success, and the four monitor parse statuses with their raw length (R271). -/
def mayLeaveRes : List Byte := [0x00, 0x10, 0x11, 0x12, 0x13]

/-- The results of a command have their form, and an error other than a monitor parse status leaves no `RES` (R17 to R22, R271). -/
def EndsClean (s : State) : Prop := ResultInv s ∧ (s.status ∉ mayLeaveRes → s.res = .none)

theorem reserved_noFlags : noFlags &&& 0xC0 = 0 := rfl

theorem reserved_flagByte (f : Flag) (b : Bool) : flagByte f b &&& 0xC0 = 0 := by
  cases f <;> cases b <;> rfl

theorem reserved_or (a b : Byte) (ha : a &&& 0xC0 = 0) (hb : b &&& 0xC0 = 0) : (a ||| b) &&& 0xC0 = 0 := by
  rw [BitVec.and_comm, BitVec.and_or_distrib_left, BitVec.and_comm 0xC0 a, BitVec.and_comm 0xC0 b, ha, hb]
  rfl

theorem reserved_monitorFlags (ts : Bool) : monitorFlags ts &&& 0xC0 = 0 :=
  reserved_or _ _ (reserved_or _ _ (reserved_flagByte _ _) (reserved_flagByte _ _)) (reserved_flagByte _ _)

theorem reserved_recipeFlags (crc len prof : Bool) : recipeFlags crc len prof &&& 0xC0 = 0 :=
  reserved_or _ _ (reserved_or _ _ (reserved_flagByte _ _) (reserved_flagByte _ _)) (reserved_flagByte _ _)

theorem reserved_propertyFlags (crc len : Bool) : propertyFlags crc len &&& 0xC0 = 0 :=
  reserved_or _ _ (reserved_flagByte _ _) (reserved_flagByte _ _)

/-- A successful end is clean when what it delivers is. -/
theorem endsClean_complete (f : Byte) (o : Bytes) (r : Res) (s : State) (ho : o.length ≤ Config.obufSize) (hf : f &&& 0xC0 = 0)
    (hr : ResCanonical (complete f o r s)) : EndsClean (complete f o r s) :=
  ⟨⟨complete_obuf_wf f o r s ho, ⟨.ok, rfl⟩, hf, hr⟩, fun h => (h (List.mem_cons_self ..)).elim⟩

/-- A successful end with a byte string alone. -/
theorem endsClean_bytes (o : Bytes) (s : State) (ho : o.length ≤ Config.obufSize) : EndsClean (complete noFlags o .none s) :=
  endsClean_complete _ _ _ _ ho rfl trivial

theorem endsClean_raise (st : Status) (s : State) : EndsClean (raise st s) :=
  ⟨⟨raiseWith_obuf_wf st .none s, ⟨st, rfl⟩, reserved_noFlags, trivial⟩, fun _ => rfl⟩

/-- A status raised by the monitor tests leaves the raw length (R133). -/
theorem endsClean_raiseParse (f : Bytes) (st : Status) (n : Half) (s : State) (h : monitorCheck f = some st) :
    EndsClean (raiseWith st (.rawlen n) s) := by
  refine ⟨⟨raiseWith_obuf_wf st _ s, ⟨st, rfl⟩, reserved_noFlags, trivial⟩, fun hst => (hst ?_).elim⟩
  rcases monitorCheck_status f st h with rfl | rfl | rfl | rfl <;> simp [mayLeaveRes, Status.code]

theorem endsClean_resetState (s : State) : EndsClean (resetState s) :=
  ⟨⟨reset_obuf_wf, ⟨.ok, rfl⟩, reserved_noFlags, trivial⟩, fun _ => rfl⟩

/-! ## Instructions outside the session families -/

/-- What an instruction outside the session families leaves: `CRC` and the four results. -/
structure Ending where
  crc    : Half
  status : Byte
  flags  : Byte
  obuf   : Bytes
  res    : Res

/-- `s` with `CRC` and the results of an ending, and nothing else replaced. -/
def State.endWith (s : State) (e : Ending) : State :=
  { s with crc := e.crc, status := e.status, flags := e.flags, obuf := e.obuf, res := e.res }

/-- Always ends, with an ending that depends on the value of `CRC` alone, that is clean, and that keeps `CRC` unless `writes` says it is
written. -/
def EndsPlainly (writes : Bool) (cmd : State → Outcome) : Prop :=
  ∃ e : Half → Ending, (∀ c, writes = false → (e c).crc = c) ∧
    ∀ s, cmd s = .next (s.endWith (e s.crc)) ∧ EndsClean (s.endWith (e s.crc))

theorem endsPlainly_complete {w : Bool} (f : Byte) (o : Bytes) (r : Res) (h : ∀ s, EndsClean (complete f o r s)) :
    EndsPlainly w fun s => .next (complete f o r s) :=
  ⟨fun c => ⟨c, Status.ok.code, f, o, r⟩, fun _ _ => rfl, fun s => ⟨rfl, h s⟩⟩

theorem endsPlainly_raiseWith {w : Bool} (st : Status) (r : Res) (h : ∀ s, EndsClean (raiseWith st r s)) :
    EndsPlainly w fun s => .next (raiseWith st r s) :=
  ⟨fun c => ⟨c, st.code, noFlags, [], r⟩, fun _ _ => rfl, fun s => ⟨rfl, h s⟩⟩

theorem endsPlainly_raised {w : Bool} (st : Status) : EndsPlainly w (raised st) :=
  endsPlainly_raiseWith st .none (endsClean_raise st)

theorem endsPlainly_delivered {w : Bool} (out : Bytes) (h : out.length ≤ Config.obufSize) : EndsPlainly w (delivered out) :=
  endsPlainly_complete noFlags out .none fun s => endsClean_bytes out s h

/-- The CRC commands: the new value is a function of the old one (R103 to R105). -/
theorem endsPlainly_completeCrc (v : Half → Half) : EndsPlainly true fun s => .next (completeCrc (v s.crc) s) :=
  ⟨fun c => ⟨v c, Status.ok.code, noFlags, halfBytes (v c), .crc (v c)⟩, fun _ h => (by cases h), fun s =>
    ⟨rfl, endsClean_complete noFlags (halfBytes (v s.crc)) (.crc (v s.crc)) { s with crc := v s.crc } (by simp [halfBytes, Config.obufSize])
      reserved_noFlags trivial⟩⟩

/-- The operand check in front of a command that ends plainly when its operands fit (R64). -/
theorem endsPlainly_withOperands {w : Bool} (ops : List Bytes) (cmd : State → Outcome)
    (h : (∀ b ∈ ops, b.length ≤ Config.maxOperand) → EndsPlainly w cmd) : EndsPlainly w fun s => withOperands ops s (cmd s) := by
  by_cases hfit : ∀ b ∈ ops, b.length ≤ Config.maxOperand
  · simpa only [withOperands_of_fits ops _ _ hfit] using h hfit
  · push Not at hfit
    obtain ⟨b, hb, hlong⟩ := hfit
    have hraise : (fun s => withOperands ops s (cmd s)) = raised .operand :=
      funext fun s => withOperands_of_long ops s (cmd s) b hb hlong
    rw [hraise]
    exact endsPlainly_raised .operand

/-- A command with one `bytes` operand. -/
theorem endsPlainly_withOperand {w : Bool} (b : Bytes) (cmd : State → Outcome)
    (h : b.length ≤ Config.maxOperand → EndsPlainly w cmd) : EndsPlainly w fun s => withOperands [b] s (cmd s) :=
  endsPlainly_withOperands [b] cmd fun hfit => h (hfit b (List.mem_singleton.2 rfl))

theorem endsPlainly_deliverText {w : Bool} (out : Bytes) : EndsPlainly w (deliverText out) := by
  unfold deliverText
  cases h : resultTooLong out with
  | true => exact endsPlainly_raised .operand
  | false => exact endsPlainly_delivered out (by simpa [resultTooLong] using h)

theorem endsPlainly_deliverDecoded {w : Bool} (st : Status) (out : Option Bytes) (h : ∀ b, out = some b → b.length ≤ Config.obufSize) :
    EndsPlainly w (deliverDecoded st out) := by
  cases out with
  | none => exact endsPlainly_raised st
  | some b => exact endsPlainly_delivered b (h b rfl)

theorem endsPlainly_tlvDec {w : Bool} (c : TlvTables) (d : Bytes) : EndsPlainly w fun s => .next (completeTlvDec c d s) :=
  endsPlainly_complete _ _ _ fun _ => endsClean_complete _ _ _ _ (Nat.zero_le _) rfl (tlvDecode_sorted c d)

theorem endsPlainly_tlvName {w : Bool} (c : TlvTables) (t : Byte) : EndsPlainly w fun s => .next (completeTlvName c t s) :=
  endsPlainly_complete _ _ _ fun _ => endsClean_complete _ _ _ _ (length_tagName_le c t) (reserved_flagByte _ _) trivial

theorem endsPlainly_buildBrew {w : Bool} (c : TlvTables) (bev trig : Byte) (m : ParamMap) :
    EndsPlainly w fun s => .next (buildBrew c bev trig m s) := by
  refine endsPlainly_complete _ _ _ fun _ => endsClean_complete _ _ _ _ ?_ (reserved_flagByte _ _) trivial
  have := length_tlvEncode_le c m
  rw [length_brewFrame, Config.obufSize]
  omega

/-- What fits an operand fits the output buffer (R8). -/
theorem length_le_obufSize (b : Bytes) (h : b.length ≤ Config.maxOperand) : b.length ≤ Config.obufSize :=
  h.trans (by decide)

theorem length_slice_le (f : Bytes) (a b : Nat) : (slice f a b).length ≤ f.length := by
  simp only [slice, List.length_drop, List.length_take]
  omega

theorem length_monitorExtra_le (f : Bytes) : (monitorExtra f).length ≤ f.length := by
  unfold monitorExtra monitorTrailing
  split <;> simp only [List.length_drop] <;> omega

theorem endsPlainly_monitor {w : Bool} (f : Bytes) (hf : f.length ≤ Config.maxOperand) :
    EndsPlainly w fun s => .next (decodeMonitor f s) := by
  unfold decodeMonitor
  cases h : monitorCheck f with
  | some st => exact endsPlainly_raiseWith _ _ fun s => endsClean_raiseParse f st _ s h
  | none =>
    exact endsPlainly_complete _ _ _ fun _ => endsClean_complete _ _ _ _
      (length_le_obufSize _ ((length_monitorExtra_le f).trans hf)) (reserved_monitorFlags _) trivial

/-- The mapping of a recipe record is a decoded one (R142). -/
theorem recipeRecord_params_sorted (c : TlvTables) (f : Bytes) (fmt : RecipeFormat) (m : ParamMap)
    (h : (recipeRecord c f fmt).params = some m) : m.Sorted := by
  cases fmt <;> cases h <;> exact tlvDecode_sorted _ _

theorem endsPlainly_recipe {w : Bool} (c : TlvTables) (f : Bytes) (hf : f.length ≤ Config.maxOperand) :
    EndsPlainly w fun s => .next (decodeRecipe c f s) := by
  unfold decodeRecipe
  cases recipeFormat f with
  | unknown =>
    refine endsPlainly_complete _ _ _ fun _ => endsClean_complete _ _ _ _ ?_ rfl (recipeRecord_params_sorted c f _)
    rw [length_hexEncode, Config.obufSize]
    rw [Config.maxOperand] at hf
    omega
  | profile =>
    exact endsPlainly_complete _ _ _ fun _ =>
      endsClean_complete _ _ _ _ (Nat.zero_le _) (reserved_recipeFlags _ _ _) (recipeRecord_params_sorted c f _)
  | default =>
    exact endsPlainly_complete _ _ _ fun _ =>
      endsClean_complete _ _ _ _ (Nat.zero_le _) (reserved_recipeFlags _ _ _) (recipeRecord_params_sorted c f _)

theorem endsPlainly_property {w : Bool} (f : Bytes) (hf : f.length ≤ Config.maxOperand) :
    EndsPlainly w fun s => .next (decodeProperty f s) := by
  unfold decodeProperty
  split
  · exact endsPlainly_complete _ _ _ fun _ => endsClean_complete _ _ _ _
      (length_le_obufSize _ ((length_slice_le _ _ _).trans hf)) (reserved_propertyFlags _ _) trivial
  · exact endsPlainly_complete _ _ _ fun _ => endsClean_complete _ _ _ _ (Nat.zero_le _) rfl trivial

/-- Every instruction outside the session families ends plainly, and keeps `CRC` unless it is one of its writers (R13, R23). -/
theorem exec_endsPlainly (i : Instr) (h : usesSession i = false) : EndsPlainly (writesCrc i) (exec i) := by
  cases i with
  | reset | setKey | derive | expire | enc | dec | sign => cases h
  | nop => exact endsPlainly_delivered [] (Nat.zero_le _)
  | crc16 d => exact endsPlainly_withOperand d _ fun _ => endsPlainly_completeCrc fun _ => crcReg d
  | crcInit => exact endsPlainly_completeCrc fun _ => crcInitValue
  | crcUpd d => exact endsPlainly_withOperand d _ fun _ => endsPlainly_completeCrc fun c => crcUpdate c d
  | tlvDec d => exact endsPlainly_withOperand d _ fun _ => endsPlainly_tlvDec _ _
  | tlvEnc m => exact endsPlainly_delivered _ ((length_tlvEncode_le _ m).trans (by decide))
  | tlvName t => exact endsPlainly_tlvName _ _
  | monDec f => exact endsPlainly_withOperand f _ (endsPlainly_monitor f)
  | rcpDec f => exact endsPlainly_withOperand f _ (endsPlainly_recipe _ f)
  | propDec f => exact endsPlainly_withOperand f _ (endsPlainly_property f)
  | brew bev trig m => exact endsPlainly_buildBrew _ _ _ _
  | b64e d => exact endsPlainly_withOperand d _ fun _ => endsPlainly_deliverText _
  | b64d x =>
    exact endsPlainly_withOperand x _ fun hx => endsPlainly_deliverDecoded _ _ fun out hout =>
      length_le_obufSize out ((length_b64Decode_le x out hout).trans hx)
  | hexe d => exact endsPlainly_withOperand d _ fun _ => endsPlainly_deliverText _
  | hexd x =>
    refine endsPlainly_withOperand x _ fun hx => endsPlainly_deliverDecoded _ _ fun out hout => length_le_obufSize out ?_
    have := length_hexDecode x out hout
    omega
  | frameBrew => exact endsPlainly_withOperand _ _ fun _ => endsPlainly_buildBrew _ _ _ _
  | frameRecipeProfile => exact endsPlainly_withOperand _ _ (endsPlainly_recipe _ _)
  | frameRecipeDefault => exact endsPlainly_withOperand _ _ (endsPlainly_recipe _ _)
  | frameProperty => exact endsPlainly_withOperand _ _ (endsPlainly_property _)
  | frameMonitor f => exact endsPlainly_withOperand _ _ (endsPlainly_monitor _)
  | tlvEntry1 => exact endsPlainly_tlvDec _ _
  | tlvEntry2 => exact endsPlainly_tlvDec _ _

/-! ## Session instructions -/

/-- The instructions of the session families, by name. -/
theorem usesSession_cases (i : Instr) (h : usesSession i = true) :
    i = .reset ∨ (∃ k, i = .setKey k) ∨ (∃ ar dr atm dtm, i = .derive ar dr atm dtm) ∨ i = .expire ∨ (∃ p, i = .enc p) ∨
      (∃ c, i = .dec c) ∨ ∃ p, i = .sign p := by
  cases i <;> simp [usesSession] at h ⊢

/-- A session instruction that answers resets, raises a status, or delivers a byte string that fits, `CRC` kept. -/
theorem exec_session_cases (i : Instr) (s t : State) (hi : usesSession i = true) (h : exec i s = .next t) :
    (i = .reset ∧ t = resetState s) ∨ (∃ st, t = raise st s) ∨
      ∃ out s', s'.crc = s.crc ∧ out.length ≤ Config.obufSize ∧ t = complete noFlags out .none s' := by
  rcases usesSession_cases i hi with rfl | ⟨k, rfl⟩ | ⟨ar, dr, atm, dtm, rfl⟩ | rfl | ⟨p, rfl⟩ | ⟨c, rfl⟩ | ⟨p, rfl⟩
  case inl => cases h; exact .inl ⟨rfl, rfl⟩
  all_goals refine .inr ?_
  · rcases execSetKey_cases k s with ⟨-, e⟩ | ⟨-, e⟩ <;> cases e.symm.trans h
    · exact .inl ⟨_, rfl⟩
    · exact .inr ⟨_, _, by simp, Nat.zero_le _, rfl⟩
  · rcases execDerive_cases ar dr atm dtm s with e | ⟨-, e⟩ | ⟨k, -, e⟩ <;> cases e.symm.trans h
    · exact .inl ⟨_, rfl⟩
    · exact .inl ⟨_, rfl⟩
    · exact .inr ⟨_, _, by simp, Nat.zero_le _, rfl⟩
  · cases h
    exact .inr ⟨_, _, by simp, Nat.zero_le _, rfl⟩
  · rcases execEnc_cases p s with ⟨st, e, -⟩ | ⟨reg, -, e, -⟩ | ⟨k, v, -, -, hp, -, -, e⟩ <;> cases e.symm.trans h
    · exact .inl ⟨_, rfl⟩
    · refine .inr ⟨_, _, by simp, ?_, rfl⟩
      rw [length_msgEncrypt, Config.obufSize]
      rw [Config.maxOperand] at hp
      omega
  · rcases execDec_cases c s with ⟨st, e, -⟩ | ⟨reg, -, e, -⟩ | ⟨k, v, -, -, -, hc, -, -, e⟩ <;> cases e.symm.trans h
    · exact .inl ⟨_, rfl⟩
    · exact .inr ⟨_, _, by simp, length_le_obufSize _ ((length_msgDecrypt_le k v c).trans hc), rfl⟩
  · rcases execSign_cases p s with ⟨st, e, -⟩ | ⟨-, e, -⟩ | ⟨k, -, -, -, e⟩ <;> cases e.symm.trans h
    · exact .inl ⟨_, rfl⟩
    · exact .inr ⟨_, _, rfl, by simp [Config.obufSize], rfl⟩

/-- However an instruction ends, it ends clean, from every state. -/
theorem exec_endsClean (i : Instr) (s t : State) (h : exec i s = .next t) : EndsClean t := by
  cases hi : usesSession i with
  | false =>
    obtain ⟨e, -, hend⟩ := exec_endsPlainly i hi
    obtain ⟨hnext, hclean⟩ := hend s
    cases hnext.symm.trans h
    exact hclean
  | true =>
    rcases exec_session_cases i s t hi h with ⟨-, rfl⟩ | ⟨st, rfl⟩ | ⟨out, s', -, hout, rfl⟩
    · exact endsClean_resetState s
    · exact endsClean_raise st s
    · exact endsClean_bytes out s' hout

end Sys2Proof.Machine
end

section
/-! PROOFS. The statements about the state of the block (spec/10_state): reset (R24), `SSTAT` (R20), who writes which register and in which
width (R13 to R16), the form of the results (R17 to R22), and what of the secrets a host can read (R23). -/

namespace Sys2Proof.Machine

/-! ## Reset and `SSTAT` -/

theorem reset_atReset : AtReset State.reset := ⟨rfl, rfl, rfl, rfl, rfl, rfl, rfl, rfl, rfl, rfl, rfl, rfl, rfl, rfl⟩

theorem resetState_atReset (s : State) : AtReset (resetState s) := reset_atReset

theorem step_of_port_empty (s : State) (h : s.port = []) : step s = .next s := by simp [step, fetch_empty s h]

/-- With nothing offered the block stays in its state, for any number of steps (R286). -/
theorem run_of_port_empty (s : State) (h : s.port = []) (k : Nat) : Host.Core.run core k s = .next s := by
  have hidle : core.step s = .next s := step_of_port_empty s h
  induction k with
  | zero => rfl
  | succ k ih => simpa only [Host.Core.run, hidle] using ih

/-- Settles O7: both resets give the table of R24, and an empty port idles. -/
theorem resetStateIsTheTable : Obligations.ResetStateIsTheTable :=
  ⟨reset_atReset, fun s => ⟨resetState s, rfl, resetState_atReset s⟩, rfl, run_of_port_empty State.reset rfl⟩

/-- `SSTAT` as a function of `SESS` and of whether there is a LAN key (R20). -/
def sstatOf (x : Sess) (hasLanKey : Bool) : Byte := x.code ||| (if x.live then 0x40 else 0) ||| (if hasLanKey then 0x80 else 0)

theorem sstat_eq_sstatOf (s : State) : sstat s = sstatOf s.sess s.lanKey.isSome := rfl

theorem sstatOf_sessBits (x : Sess) (k : Bool) : sstatOf x k &&& 0x03 = x.code := by cases x <;> cases k <;> rfl

theorem sstatOf_lanKeyBit (x : Sess) (k : Bool) : (sstatOf x k).getLsbD 7 = k := by cases x <;> cases k <;> rfl

theorem sstatOf_keysBit (x : Sess) (k : Bool) : (sstatOf x k).getLsbD 6 = x.live := by cases x <;> cases k <;> rfl

theorem sstatOf_reserved (x : Sess) (k : Bool) : sstatOf x k &&& 0x3C = 0 := by cases x <;> cases k <;> rfl

theorem live_iff (x : Sess) : x.live = true ↔ x = .derived ∨ x = .active := by cases x <;> simp [Sess.live]

/-- Settles O56, field by field of `SSTAT`. -/
theorem sstatIsAFunctionOfSessAndLanKey : Obligations.SstatIsAFunctionOfSessAndLanKey := by
  intro s
  rw [sstat_eq_sstatOf s]
  refine ⟨?sess, ?lanKey, ?keys, sstatOf_reserved _ _, rfl⟩
  case sess =>
    rw [sstatOf_sessBits]
    cases s.sess <;> rfl
  case lanKey => rw [sstatOf_lanKeyBit, Option.isSome_iff_ne_none]
  case keys => rw [sstatOf_keysBit, live_iff]

/-! ## Frames of the session registers -/

theorem sameSession_endWith (s : State) (e : Ending) : SameSession s (s.endWith e) := ⟨rfl, rfl, rfl, rfl, rfl, rfl, rfl⟩

theorem sameSession_raise (st : Status) (s : State) : SameSession s (raise st s) := ⟨rfl, rfl, rfl, rfl, rfl, rfl, rfl⟩

theorem sameSession_complete (f : Byte) (o : Bytes) (r : Res) (s : State) : SameSession s (complete f o r s) :=
  ⟨rfl, rfl, rfl, rfl, rfl, rfl, rfl⟩

/-- An instruction outside the session families leaves every session register (R23). -/
theorem exec_sameSession (i : Instr) (s t : State) (hi : usesSession i = false) (h : exec i s = .next t) : SameSession s t := by
  obtain ⟨e, -, hend⟩ := exec_endsPlainly i hi
  cases (hend s).1.symm.trans h
  exact sameSession_endWith s _

/-- `SIGN` leaves every session register (R227). -/
theorem sign_sameSession (p : Bytes) (s t : State) (h : exec (.sign p) s = .next t) : SameSession s t := by
  rcases execSign_cases p s with ⟨st, e, -⟩ | ⟨-, e, -⟩ | ⟨k, -, -, -, e⟩ <;> cases e.symm.trans h
  · exact sameSession_raise _ s
  · exact sameSession_complete _ _ _ s

/-- `ENC` changes of the LAN key and the secrets only `IV_APP` (R221). -/
theorem enc_frame (p : Bytes) (s t : State) (h : exec (.enc p) s = .next t) :
    t.lanKey = s.lanKey ∧ t.kSign = s.kSign ∧ t.kApp = s.kApp ∧ t.kDev = s.kDev ∧ t.ivDev = s.ivDev := by
  rcases execEnc_cases p s with ⟨st, e, -⟩ | ⟨reg, -, e, -⟩ | ⟨k, v, -, -, -, -, -, e⟩ <;> cases e.symm.trans h
  · exact ⟨rfl, rfl, rfl, rfl, rfl⟩
  · exact ⟨rfl, rfl, rfl, rfl, rfl⟩

/-- `DEC` changes of the LAN key and the secrets only `IV_DEV` (R221). -/
theorem dec_frame (c : Bytes) (s t : State) (h : exec (.dec c) s = .next t) :
    t.lanKey = s.lanKey ∧ t.kSign = s.kSign ∧ t.kApp = s.kApp ∧ t.kDev = s.kDev ∧ t.ivApp = s.ivApp := by
  rcases execDec_cases c s with ⟨st, e, -⟩ | ⟨reg, -, e, -⟩ | ⟨k, v, -, -, -, -, -, -, e⟩ <;> cases e.symm.trans h
  · exact ⟨rfl, rfl, rfl, rfl, rfl⟩
  · exact ⟨rfl, rfl, rfl, rfl, rfl⟩

theorem derive_lanKey (ar dr atm dtm : Bytes) (s t : State) (h : exec (.derive ar dr atm dtm) s = .next t) : t.lanKey = s.lanKey := by
  rcases execDerive_cases ar dr atm dtm s with e | ⟨-, e⟩ | ⟨k, -, e⟩ <;> cases e.symm.trans h <;> rfl

theorem expire_lanKey (s t : State) (h : exec .expire s = .next t) : t.lanKey = s.lanKey := by
  cases h
  exact invalidate_lanKey s

/-- Only `SETKEY` and `RESET` write the LAN key (R15). -/
theorem exec_lanKey (i : Instr) (s t : State) (hreset : i ≠ .reset) (hset : ∀ k, i ≠ .setKey k) (h : exec i s = .next t) :
    t.lanKey = s.lanKey := by
  cases hi : usesSession i with
  | false => exact (exec_sameSession i s t hi h).2.1
  | true =>
    rcases usesSession_cases i hi with rfl | ⟨k, rfl⟩ | ⟨ar, dr, atm, dtm, rfl⟩ | rfl | ⟨p, rfl⟩ | ⟨c, rfl⟩ | ⟨p, rfl⟩
    · exact (hreset rfl).elim
    · exact (hset k rfl).elim
    · exact derive_lanKey ar dr atm dtm s t h
    · exact expire_lanKey s t h
    · exact (enc_frame p s t h).1
    · exact (dec_frame c s t h).1
    · exact (sign_sameSession p s t h).2.1

/-- Settles O17, from the frame of each kind of instruction. -/
theorem sessionRegistersHaveTheirWriters : Obligations.SessionRegistersHaveTheirWriters := by
  intro i s t h
  refine ⟨fun hi => exec_sameSession i s t hi h, ?_, ?_, ?_, fun hreset hset => exec_lanKey i s t hreset hset h⟩
  · rintro p rfl
    exact sign_sameSession p s t h
  · rintro p rfl
    exact enc_frame p s t h
  · rintro c rfl
    exact dec_frame c s t h

/-- Settles O16: outside its writers `CRC` survives a plain ending and every ending of a session instruction. -/
theorem onlyCrcCommandsWriteCrc : Obligations.OnlyCrcCommandsWriteCrc := by
  intro i s t hw h
  cases hi : usesSession i with
  | false =>
    obtain ⟨e, hcrc, hend⟩ := exec_endsPlainly i hi
    cases (hend s).1.symm.trans h
    exact hcrc s.crc hw
  | true =>
    rcases exec_session_cases i s t hi h with ⟨rfl, -⟩ | ⟨st, rfl⟩ | ⟨out, s', hcrc, -, rfl⟩
    · cases hw
    · rfl
    · exact hcrc

/-! ## The form of the results -/

/-- Settles O12: an idle step changes nothing, every instruction ends clean, and so does `BADCMD`. -/
theorem everyStepKeepsTheResultForm : Obligations.EveryStepKeepsTheResultForm := by
  intro s t hs h
  rcases step_cases s with ⟨-, e⟩ | ⟨o, rest, i, -, -, e⟩ | ⟨o, rest, err, -, -, e⟩
  · cases e.symm.trans h
    exact hs
  · exact (exec_endsClean i _ t (e.symm.trans h)).1
  · cases e.symm.trans h
    exact (endsClean_raise .badCmd _).1

/-! ## The widths of the session registers -/

theorem holdsBytes_none (n : Nat) : holdsBytes n none := fun _ h => by cases h

theorem holdsBytes_some (n : Nat) (b : Bytes) (h : b.length = n) : holdsBytes n (some b) := fun _ hb => by cases hb; exact h

/-- The widths speak of the session registers alone. -/
theorem widthInv_of_sameSession (s t : State) (h : SameSession s t) (hs : WidthInv s) : WidthInv t := by
  obtain ⟨-, hlan, hsign, happ, hivApp, hdev, hivDev⟩ := h
  unfold WidthInv
  rw [hlan, hsign, happ, hivApp, hdev, hivDev]
  exact hs

/-- Without secrets the widths are the LAN key's. -/
theorem widthInv_clearSecrets (s : State) (h : ∀ k, s.lanKey = some k → k.length ≤ Config.maxOperand) : WidthInv (clearSecrets s) :=
  ⟨h, holdsBytes_none _, holdsBytes_none _, holdsBytes_none _, holdsBytes_none _, holdsBytes_none _⟩

theorem widthInv_invalidate (s : State) (h : WidthInv s) : WidthInv (invalidate s) := by
  cases hl : s.sess.live with
  | false => rwa [invalidate_of_not_live s hl]
  | true =>
    rw [invalidate_of_live s hl]
    exact widthInv_clearSecrets _ h.1

/-- Derived keys have 32 bytes and derived IVs 16 (R16, R186). -/
theorem widthInv_installSecrets (k : Bytes) (n : Nonces) (s : State) (h : ∀ k, s.lanKey = some k → k.length ≤ Config.maxOperand) :
    WidthInv (installSecrets (deriveSecrets k n) s) :=
  ⟨h, holdsBytes_some _ _ (length_nestedHmac _ _), holdsBytes_some _ _ (length_nestedHmac _ _),
    holdsBytes_some _ _ (by simp [deriveSecrets]), holdsBytes_some _ _ (length_nestedHmac _ _),
    holdsBytes_some _ _ (by simp [deriveSecrets])⟩

/-- A new LAN key that fits an operand. -/
theorem widthInv_withLanKey (key : Bytes) (s : State) (hkey : key.length ≤ Config.maxOperand) (h : WidthInv s) :
    WidthInv { s with lanKey := some key } :=
  ⟨fun _ hk => (by cases hk; exact hkey), h.2⟩

/-- The rotated IV of a message of at least one byte is one block (R221, R222). -/
theorem length_msgEncrypt_iv (k v p : Bytes) (h : p ≠ []) : (msgEncrypt k v p).2.length = 16 := by
  have hp := List.length_pos_iff.2 h
  refine length_nextIv _ ?_
  rw [length_cbcEncrypt, length_zeroPad]
  omega

/-- The rotated IV of a ciphertext that `DEC` accepts is one block (R221, R224). -/
theorem length_msgDecrypt_iv (k v c : Bytes) (h0 : c.length ≠ 0) (h16 : c.length % 16 = 0) : (msgDecrypt k v c).2.length = 16 :=
  length_nextIv c (by omega)

/-- Every instruction keeps the widths: the new keys and IVs are whole HMAC values or 16 bytes of one, the rotated IVs one block. -/
theorem exec_widthInv (i : Instr) (s t : State) (hs : WidthInv s) (h : exec i s = .next t) : WidthInv t := by
  cases hi : usesSession i with
  | false => exact widthInv_of_sameSession s t (exec_sameSession i s t hi h) hs
  | true =>
    have hraise (st : Status) : WidthInv (raise st s) := widthInv_of_sameSession s _ (sameSession_raise st s) hs
    have hdone (o : Bytes) (s' : State) (h' : WidthInv s') : WidthInv (complete noFlags o .none s') :=
      widthInv_of_sameSession s' _ (sameSession_complete _ _ _ s') h'
    rcases usesSession_cases i hi with rfl | ⟨k, rfl⟩ | ⟨ar, dr, atm, dtm, rfl⟩ | rfl | ⟨p, rfl⟩ | ⟨c, rfl⟩ | ⟨p, rfl⟩
    · cases h
      exact widthInv_clearSecrets (resetState s) fun _ hk => by cases hk
    · rcases execSetKey_cases k s with ⟨-, e⟩ | ⟨hk, e⟩ <;> cases e.symm.trans h
      · exact hraise _
      · exact hdone _ _ (widthInv_invalidate _ (widthInv_withLanKey k s hk hs))
    · rcases execDerive_cases ar dr atm dtm s with e | ⟨-, e⟩ | ⟨k, -, e⟩ <;> cases e.symm.trans h
      · exact hraise _
      · exact hraise _
      · exact hdone _ _ (widthInv_installSecrets _ _ _ hs.1)
    · cases h
      exact hdone _ _ (widthInv_invalidate s hs)
    · rcases execEnc_cases p s with ⟨st, e, -⟩ | ⟨reg, -, e, -⟩ | ⟨k, v, -, hp, -, -, -, e⟩ <;> cases e.symm.trans h
      · exact hraise st
      · obtain ⟨hlan, hsign, happ, -, hdev⟩ := hs
        exact hdone _ _ ⟨hlan, hsign, happ, holdsBytes_some _ _ (length_msgEncrypt_iv k v p hp), hdev⟩
    · rcases execDec_cases c s with ⟨st, e, -⟩ | ⟨reg, -, e, -⟩ | ⟨k, v, -, h0, h16, -, -, -, e⟩ <;> cases e.symm.trans h
      · exact hraise st
      · obtain ⟨hlan, hsign, happ, hivApp, hdev, -⟩ := hs
        exact hdone _ _ ⟨hlan, hsign, happ, hivApp, hdev, holdsBytes_some _ _ (length_msgDecrypt_iv k v c h0 h16)⟩
    · exact widthInv_of_sameSession s t (sign_sameSession p s t h) hs

/-- Settles O11: idling and `BADCMD` leave the session registers, every instruction keeps the widths. -/
theorem everyStepKeepsTheRegisterWidths : Obligations.EveryStepKeepsTheRegisterWidths := by
  intro s t hs h
  rcases step_cases s with ⟨-, e⟩ | ⟨o, rest, i, -, -, e⟩ | ⟨o, rest, err, -, -, e⟩
  · cases e.symm.trans h
    exact hs
  · exact exec_widthInv i { s with port := rest } t hs (e.symm.trans h)
  · cases e.symm.trans h
    exact hs

/-! ## What the host reads of the secrets -/

/-- No host read distinguishes states that differ in the secrets alone (R15, R16, R23). -/
theorem hostRead_of_sameButSecrets (s₁ s₂ : State) (h : SameButSecrets s₁ s₂) (r : HostReg) : hostRead s₁ r = hostRead s₂ r := by
  obtain ⟨-, hcrc, hsess, hlan, hobuf, hstatus, hflags, hres⟩ := h
  cases r <;> simp only [hostRead, sstat, olen, hcrc, hsess, hlan, hobuf, hstatus, hflags, hres]

theorem sameButSecrets_endWith (s₁ s₂ : State) (e : Ending) (h : SameButSecrets s₁ s₂) :
    SameButSecrets (s₁.endWith e) (s₂.endWith e) := by
  obtain ⟨hport, -, hsess, hlan, -⟩ := h
  exact ⟨hport, rfl, hsess, hlan, rfl, rfl, rfl, rfl⟩

theorem sameButSecrets_complete (f : Byte) (o : Bytes) (r : Res) (s₁ s₂ : State) (h : SameButSecrets s₁ s₂) :
    SameButSecrets (complete f o r s₁) (complete f o r s₂) := by
  obtain ⟨hport, hcrc, hsess, hlan, -⟩ := h
  exact ⟨hport, hcrc, hsess, hlan, rfl, rfl, rfl, rfl⟩

theorem sameButSecrets_raise (st : Status) (s₁ s₂ : State) (h : SameButSecrets s₁ s₂) :
    SameButSecrets (raise st s₁) (raise st s₂) := by
  obtain ⟨hport, hcrc, hsess, hlan, -⟩ := h
  exact ⟨hport, hcrc, hsess, hlan, rfl, rfl, rfl, rfl⟩

theorem sameButSecrets_resetState (s₁ s₂ : State) (h : SameButSecrets s₁ s₂) : SameButSecrets (resetState s₁) (resetState s₂) :=
  ⟨h.1, rfl, rfl, rfl, rfl, rfl, rfl, rfl⟩

/-- Whether a session ends depends on `SESS`, not on the secrets (R188, R190). -/
theorem sameButSecrets_invalidate (s₁ s₂ : State) (h : SameButSecrets s₁ s₂) : SameButSecrets (invalidate s₁) (invalidate s₂) := by
  obtain ⟨hport, hcrc, hsess, hlan, hresults⟩ := h
  cases hl : s₁.sess.live with
  | false =>
    rw [invalidate_of_not_live s₁ hl, invalidate_of_not_live s₂ (by rwa [hsess])]
    exact ⟨hport, hcrc, hsess, hlan, hresults⟩
  | true =>
    rw [invalidate_of_live s₁ hl, invalidate_of_live s₂ (by rwa [hsess])]
    exact ⟨hport, hcrc, rfl, hlan, hresults⟩

/-- Both states answer a next state, and these differ in the secrets alone. -/
def StaysSameButSecrets (o₁ o₂ : Outcome) : Prop := ∃ t₁ t₂, o₁ = .next t₁ ∧ o₂ = .next t₂ ∧ SameButSecrets t₁ t₂

/-- The operand check sees the operands alone (R274). -/
theorem staysSameButSecrets_withOperands (ops : List Bytes) (s₁ s₂ : State) (o₁ o₂ : Outcome) (h : SameButSecrets s₁ s₂)
    (ho : StaysSameButSecrets o₁ o₂) : StaysSameButSecrets (withOperands ops s₁ o₁) (withOperands ops s₂ o₂) := by
  unfold withOperands
  cases operandTooLong ops with
  | true => exact ⟨_, _, rfl, rfl, sameButSecrets_raise _ s₁ s₂ h⟩
  | false => exact ho

theorem staysSameButSecrets_setKey (k : Bytes) (s₁ s₂ : State) (h : SameButSecrets s₁ s₂) :
    StaysSameButSecrets (exec (.setKey k) s₁) (exec (.setKey k) s₂) := by
  refine staysSameButSecrets_withOperands _ s₁ s₂ _ _ h ⟨_, _, rfl, rfl, sameButSecrets_complete _ _ _ _ _ ?_⟩
  refine sameButSecrets_invalidate _ _ ?_
  obtain ⟨hport, hcrc, hsess, -, hresults⟩ := h
  exact ⟨hport, hcrc, hsess, rfl, hresults⟩

/-- `DERIVE` shows whether there is a LAN key, which `SSTAT` shows too, and not its value (R189). -/
theorem staysSameButSecrets_derive (ar dr atm dtm : Bytes) (s₁ s₂ : State) (h : SameButSecrets s₁ s₂) :
    StaysSameButSecrets (exec (.derive ar dr atm dtm) s₁) (exec (.derive ar dr atm dtm) s₂) := by
  refine staysSameButSecrets_withOperands _ s₁ s₂ _ _ h ?_
  have hlan : s₂.lanKey.isSome = s₁.lanKey.isSome := h.2.2.2.1
  cases h₁ : s₁.lanKey with
  | none =>
    have h₂ : s₂.lanKey = none := by simpa [h₁] using hlan
    rw [h₂]
    exact ⟨_, _, rfl, rfl, sameButSecrets_raise _ s₁ s₂ h⟩
  | some k₁ =>
    obtain ⟨k₂, h₂⟩ : ∃ k₂, s₂.lanKey = some k₂ := Option.isSome_iff_exists.1 (by rw [hlan, h₁]; rfl)
    rw [h₂]
    refine ⟨_, _, rfl, rfl, sameButSecrets_complete _ _ _ _ _ ?_⟩
    obtain ⟨hport, hcrc, -, -, hresults⟩ := h
    exact ⟨hport, hcrc, rfl, by simp, hresults⟩

/-- Every instruction but `ENC`, `DEC` and `SIGN` keeps two states that differ in the secrets alone such (R23, R282). -/
theorem exec_staysSameButSecrets (i : Instr) (s₁ s₂ : State) (henc : ∀ p, i ≠ .enc p) (hdec : ∀ c, i ≠ .dec c)
    (hsign : ∀ p, i ≠ .sign p) (h : SameButSecrets s₁ s₂) : StaysSameButSecrets (exec i s₁) (exec i s₂) := by
  cases hi : usesSession i with
  | false =>
    obtain ⟨e, -, hend⟩ := exec_endsPlainly i hi
    have hcrc : s₂.crc = s₁.crc := h.2.1
    exact ⟨_, _, (hend s₁).1, (hend s₂).1, hcrc ▸ sameButSecrets_endWith s₁ s₂ _ h⟩
  | true =>
    rcases usesSession_cases i hi with rfl | ⟨k, rfl⟩ | ⟨ar, dr, atm, dtm, rfl⟩ | rfl | ⟨p, rfl⟩ | ⟨c, rfl⟩ | ⟨p, rfl⟩
    · exact ⟨_, _, rfl, rfl, sameButSecrets_resetState s₁ s₂ h⟩
    · exact staysSameButSecrets_setKey k s₁ s₂ h
    · exact staysSameButSecrets_derive ar dr atm dtm s₁ s₂ h
    · exact ⟨_, _, rfl, rfl, sameButSecrets_complete _ _ _ _ _ (sameButSecrets_invalidate s₁ s₂ h)⟩
    · exact (henc p rfl).elim
    · exact (hdec c rfl).elim
    · exact (hsign p rfl).elim

/-- Settles O19: the two next states differ in the secrets alone, which no host read shows. -/
theorem secretsShowOnlyThroughCipherAndSign : Obligations.SecretsShowOnlyThroughCipherAndSign := by
  intro i s₁ s₂ henc hdec hsign h
  obtain ⟨t₁, t₂, h₁, h₂, hsame⟩ := exec_staysSameButSecrets i s₁ s₂ henc hdec hsign h
  exact ⟨t₁, t₂, h₁, h₂, hostRead_of_sameButSecrets t₁ t₂ hsame⟩

end Sys2Proof.Machine
end

section
/-! PROOFS. What a host reads of `RES` after each command (spec/10_state R21): the record each decoder leaves for each shape of frame
(spec/42_frame_decode R136, R142, R147), and the fields of that record. -/

namespace Sys2Proof.Machine

/-! ## Host reads of `RES` -/

/-- In a table without a repeated key the entry of a key is found by its key. -/
theorem lookup_of_mem_nodup (fields : List (ResField × HostValue)) (hn : (fields.map Prod.fst).Nodup) (e : ResField × HostValue)
    (he : e ∈ fields) : fields.lookup e.1 = some e.2 := by
  obtain ⟨before, after, rfl⟩ := List.append_of_mem he
  refine List.lookup_eq_some_iff.2 ⟨before, after, rfl, fun p hp => ?_⟩
  rw [List.map_append, List.nodup_append] at hn
  have hne : p.1 ≠ e.1 := hn.2.2 p.1 (List.mem_map_of_mem hp) e.1 (List.mem_map_of_mem List.mem_cons_self)
  simpa using hne.symm

/-- A table of fields that agrees with the record on every field is what the host reads (R21). -/
theorem resReads_of_res (s : State) (r : Res) (fields : List (ResField × HostValue)) (hr : s.res = r)
    (hn : (fields.map Prod.fst).Nodup) (h : ∀ f, resField Config.tables r f = fields.lookup f) : ResReads s fields := by
  refine ⟨fun e he => ?_, fun f hf => ?_⟩
  · simp [hostRead, hr, h, lookup_of_mem_nodup fields hn e he]
  · have hnone : fields.lookup f = none := List.lookup_eq_none_iff.2 fun p hp => by
      simpa using fun heq : f = p.1 => hf (heq ▸ List.mem_map_of_mem hp)
    simp [hostRead, hr, h, hnone]

theorem resReads_none (s : State) (h : s.res = .none) : ResReads s [] := resReads_of_res s .none [] h List.nodup_nil fun _ => rfl

theorem resReads_crc (s : State) (v : Half) (h : s.res = .crc v) : ResReads s [(.crc, .half v)] :=
  resReads_of_res s _ _ h (by simp) fun f => by cases f <;> rfl

theorem resReads_params (s : State) (m : ParamMap) (h : s.res = .params m) : ResReads s [(.params, .params m)] :=
  resReads_of_res s _ _ h (by simp) fun f => by cases f <;> rfl

theorem resReads_rawlen (s : State) (n : Half) (h : s.res = .rawlen n) : ResReads s [(.rawlen, .half n)] :=
  resReads_of_res s _ _ h (by simp) fun f => by cases f <;> rfl

/-! ## Commands that leave nothing in `RES` -/

/-- A command that ends with status 0 passed its operand check. -/
theorem of_withOperands_ok (ops : List Bytes) (s t : State) (body : Outcome) (h : withOperands ops s body = .next t)
    (ht : t.status = 0x00) : body = .next t := by
  rcases withOperands_cases ops s body with ⟨-, e⟩ | ⟨-, e⟩
  · cases e.symm.trans h
    cases ht
  · exact e.symm.trans h

/-- The operand check leaves nothing in `RES` when the command itself does not. -/
theorem withOperands_res_none (ops : List Bytes) (s t : State) (body : Outcome) (h : withOperands ops s body = .next t)
    (hbody : body = .next t → t.res = .none) : t.res = .none := by
  rcases withOperands_cases ops s body with ⟨-, e⟩ | ⟨-, e⟩
  · cases e.symm.trans h
    rfl
  · exact hbody (e.symm.trans h)

theorem deliverText_res_none (out : Bytes) (s t : State) (h : deliverText out s = .next t) : t.res = .none := by
  rcases deliverText_cases out s with ⟨-, e⟩ | ⟨-, e⟩ <;> cases e.symm.trans h <;> rfl

theorem deliverDecoded_res_none (st : Status) (out : Option Bytes) (s t : State) (h : deliverDecoded st out s = .next t) :
    t.res = .none := by
  rcases deliverDecoded_cases st out s with ⟨b, -, e⟩ | ⟨-, e⟩ <;> cases e.symm.trans h <;> rfl

/-- No session instruction leaves anything in `RES` (R21). -/
theorem exec_session_res_none (i : Instr) (s t : State) (hi : usesSession i = true) (h : exec i s = .next t) : t.res = .none := by
  rcases exec_session_cases i s t hi h with ⟨-, rfl⟩ | ⟨st, rfl⟩ | ⟨out, s', -, -, rfl⟩ <;> rfl

/-- The instructions whose row of R21 is none: the session families and those that deliver a byte string alone. -/
def leavesNoRes : Instr → Bool
  | .nop | .tlvEnc _ | .tlvName _ | .brew .. | .b64e _ | .b64d _ | .hexe _ | .hexd _ | .frameBrew .. => true
  | i => usesSession i

/-- They leave nothing in `RES`, whether they succeed or raise. -/
theorem exec_res_none (i : Instr) (s t : State) (h : exec i s = .next t) (hi : leavesNoRes i = true) : t.res = .none := by
  cases i with
  | nop | tlvEnc | tlvName | brew => cases h; rfl
  | b64e | hexe => exact withOperands_res_none _ s t _ h (deliverText_res_none _ s t)
  | b64d | hexd => exact withOperands_res_none _ s t _ h (deliverDecoded_res_none _ _ s t)
  | frameBrew => exact withOperands_res_none _ s t _ h fun hbody => by cases hbody; rfl
  | reset | setKey | derive | expire | enc | dec | sign => exact exec_session_res_none _ s t rfl h
  | crc16 | crcInit | crcUpd | tlvDec | monDec | rcpDec | propDec | frameRecipeProfile | frameRecipeDefault | frameProperty
  | frameMonitor | tlvEntry1 | tlvEntry2 => cases hi

/-- A CRC command that succeeds leaves the new `CRC` in `RES` (R103 to R105). -/
theorem exec_crc_res (i : Instr) (s t : State) (h : exec i s = .next t) (ht : t.status = 0x00)
    (hi : i = .crcInit ∨ (∃ d, i = .crc16 d) ∨ ∃ d, i = .crcUpd d) : t.res = .crc t.crc := by
  rcases hi with rfl | ⟨d, rfl⟩ | ⟨d, rfl⟩
  · cases h; rfl
  · cases of_withOperands_ok _ s t _ h ht; rfl
  · cases of_withOperands_ok _ s t _ h ht; rfl

/-! ## Decoders on an operand that fits -/

/-- A frame fits an operand when its body and the fixed bytes around it do. -/
theorem fits_frame (pre body post : Bytes) (h : body.length + (pre.length + post.length) ≤ Config.maxOperand) :
    Fits (pre ++ body ++ post) := by
  simp only [Fits, List.length_append]
  omega

theorem exec_tlvDec_of_fits (d : Bytes) (s : State) (h : Fits d) : exec (.tlvDec d) s = .next (completeTlvDec Config.tables d s) :=
  withOperands_of_fits [d] s _ (by simpa using h)

theorem exec_monDec_of_fits (f : Bytes) (s : State) (h : Fits f) : exec (.monDec f) s = .next (decodeMonitor f s) :=
  withOperands_of_fits [f] s _ (by simpa using h)

theorem exec_rcpDec_of_fits (f : Bytes) (s : State) (h : Fits f) : exec (.rcpDec f) s = .next (decodeRecipe Config.tables f s) :=
  withOperands_of_fits [f] s _ (by simpa using h)

theorem exec_propDec_of_fits (f : Bytes) (s : State) (h : Fits f) : exec (.propDec f) s = .next (decodeProperty f s) :=
  withOperands_of_fits [f] s _ (by simpa using h)

/-! ## Monitor frames -/

/-- The four tests of R132 pass for a frame of length byte 18 that carries its checksum. -/
theorem monitorCheck_eq_none (f : Bytes) (hlen : 19 ≤ f.length) (h18 : f.getD 1 0 = 18)
    (hcrc : crc16 (f.take 17) = (f.drop 17).take 2) : monitorCheck f = none := by
  have hbyte : (byteAt f 1).toNat = 18 := by rw [byteAt, h18]; rfl
  have hslice : slice f 17 19 = (f.drop 17).take 2 := by simp [slice, List.drop_take]
  simp only [monitorCheck, hbyte]
  rw [if_neg (by omega), if_neg (by omega), if_neg (by simp [hslice, hcrc]), if_neg (by simp)]

/-- The timestamp is there from 4 trailing bytes on (R138). -/
theorem monitorTimestamp_eq (f : Bytes) :
    monitorTimestamp f =
      if 23 ≤ f.length then some #v[byteAt f 19, byteAt f 20, byteAt f 21, byteAt f 22] else none := by
  have hlen : (monitorTrailing f).length = f.length - 19 := List.length_drop
  have hbyte (k : Nat) : byteAt f (19 + k) = (monitorTrailing f).getD k 0 := by
    simp [byteAt, monitorTrailing, List.getD_eq_getElem?_getD, List.getElem?_drop]
  rw [hbyte 0, hbyte 1, hbyte 2, hbyte 3]
  unfold monitorTimestamp
  split
  · next z₀ z₁ z₂ z₃ rest hz =>
    rw [hz] at hlen
    simp only [List.length_cons] at hlen
    rw [if_pos (by omega), hz]
    rfl
  · next hno =>
    rw [if_neg fun h23 => ?_]
    rcases hz : monitorTrailing f with _ | ⟨z₀, _ | ⟨z₁, _ | ⟨z₂, _ | ⟨z₃, rest⟩⟩⟩⟩
    case cons.cons.cons.cons => exact hno z₀ z₁ z₂ z₃ rest hz
    all_goals
      rw [hz] at hlen
      simp only [List.length_cons, List.length_nil] at hlen
      omega

/-- The fields of a monitor record that every accepted frame has, for length byte 18 (R136). -/
def monitorFields (f : Bytes) : List (ResField × HostValue) :=
  [(.direction, .byte (f.getD 0 0)), (.length, .byte 18), (.requestId, .byte (f.getD 2 0)), (.answerRequired, .byte (f.getD 3 0)),
    (.accessory, .byte (f.getD 4 0)), (.switches, .bytes [f.getD 5 0, f.getD 6 0]),
    (.alarms, .bytes [f.getD 7 0, f.getD 8 0, f.getD 12 0, f.getD 13 0]), (.status, .byte (f.getD 9 0)),
    (.action, .byte (f.getD 10 0)), (.progress, .byte (f.getD 11 0)), (.rsv, .bytes [f.getD 14 0, f.getD 15 0, f.getD 16 0]),
    (.crc, .half (be16 (f.getD 17 0) (f.getD 18 0))), (.rawlen, .half (BitVec.ofNat 16 f.length))]

/-- The timestamp field, from 4 trailing bytes on (R138). -/
def timestampFields (f : Bytes) : List (ResField × HostValue) :=
  if 23 ≤ f.length then [(.timestamp, .bytes [f.getD 19 0, f.getD 20 0, f.getD 21 0, f.getD 22 0])] else []

/-- The two tables list the fields of the record that `MON_DEC` leaves, and nothing else. -/
theorem resField_monitor (f : Bytes) (h18 : f.getD 1 0 = 18) (g : ResField) :
    resField Config.tables (.monitor (monitorRecord f)) g = (monitorFields f ++ timestampFields f).lookup g := by
  have hts : resField Config.tables (.monitor (monitorRecord f)) .timestamp =
      (monitorTimestamp f).map fun z => .bytes z.toList := rfl
  rw [monitorTimestamp_eq] at hts
  unfold monitorFields timestampFields
  rw [← h18]
  cases g
  case timestamp =>
    rw [hts]
    split_ifs <;> rfl
  all_goals split <;> rfl

theorem resReads_monitor (s : State) (f : Bytes) (h18 : f.getD 1 0 = 18) (h : s.res = .monitor (monitorRecord f)) :
    ResReads s (monitorFields f ++ timestampFields f) := by
  refine resReads_of_res s _ _ h ?_ (resField_monitor f h18)
  unfold monitorFields timestampFields
  split <;> simp

/-- What `MON_DEC` leaves when it raises a parse status (R133). -/
theorem monDec_parse_res (f : Bytes) (s t : State) (h : exec (.monDec f) s = .next t) (ht : t.status ∈ [0x10, 0x11, 0x12, 0x13]) :
    t.res = .rawlen (rawLength f) := by
  rcases withOperands_cases [f] s (.next (decodeMonitor f s)) with ⟨-, e⟩ | ⟨-, e⟩ <;> cases e.symm.trans h
  · simp [Status.code] at ht
  · rcases decodeMonitor_cases f s with ⟨st, -, e⟩ | ⟨-, e⟩ <;> rw [e] at ht ⊢
    · rfl
    · simp [Status.code] at ht

/-! ## Recipe frames -/

/-- The bytes of a frame between its fixed bytes. -/
theorem slice_between (pre body post : Bytes) :
    slice (pre ++ body ++ post) pre.length ((pre ++ body ++ post).length - post.length) = body := by
  have hend : (pre ++ body ++ post).length - post.length = (pre ++ body).length := by
    rw [List.length_append]
    omega
  rw [hend, slice, List.take_left, List.drop_left]

theorem exists_last_two (l : Bytes) (h : 2 ≤ l.length) : ∃ body c₁ c₀, l = body ++ [c₁, c₀] := by
  have htwo : (l.drop (l.length - 2)).length = 2 := by
    rw [List.length_drop]
    omega
  obtain ⟨c₁, c₀, hlast⟩ := List.length_eq_two.1 htwo
  exact ⟨l.take (l.length - 2), c₁, c₀, by rw [← hlast, List.take_append_drop]⟩

/-- The command word of a frame determines its bytes 2 and 3 (R72). -/
theorem commandWord_eq_be16 (f : Bytes) (hi lo : Byte) (h : commandWord f = be16 hi lo) : byteAt f 2 = hi ∧ byteAt f 3 = lo :=
  ⟨by simpa [commandWord] using congrArg hi8 h, by simpa [commandWord] using congrArg lo8 h⟩

/-- A frame the decoder takes for profile-scoped has that form (R69, R144). -/
theorem isProfileFrame_of_recipeFormat (f : Bytes) (h : recipeFormat f = .profile) : IsProfileFrame f := by
  unfold recipeFormat at h
  split_ifs at h with hshort hword hlen
  obtain ⟨-, hmarker⟩ := not_or.1 hshort
  obtain ⟨hhi, hlo⟩ := commandWord_eq_be16 f 0xA6 0xF0 hword
  match f, not_lt.1 hlen with
  | m :: len :: a :: b :: prof :: bev :: rest, h8 =>
    obtain ⟨tlv, c₁, c₀, rfl⟩ := exists_last_two rest (by simpa using h8)
    obtain rfl : m = 0xD0 := not_not.1 hmarker
    obtain rfl : a = 0xA6 := hhi
    obtain rfl : b = 0xF0 := hlo
    exact ⟨len, prof, bev, tlv, c₁, c₀, rfl⟩

/-- A frame the decoder takes for a default one has that form (R69, R144). -/
theorem isDefaultFrame_of_recipeFormat (f : Bytes) (h : recipeFormat f = .default) : IsDefaultFrame f := by
  unfold recipeFormat at h
  split_ifs at h with hshort hother hlen' hword hlen
  obtain ⟨-, hmarker⟩ := not_or.1 hshort
  obtain ⟨hhi, hlo⟩ := commandWord_eq_be16 f 0xB0 0xF0 hword
  match f, not_lt.1 hlen with
  | m :: len :: a :: b :: bev :: rest, h7 =>
    obtain ⟨tlv, c₁, c₀, rfl⟩ := exists_last_two rest (by simpa using h7)
    obtain rfl : m = 0xD0 := not_not.1 hmarker
    obtain rfl : a = 0xB0 := hhi
    obtain rfl : b = 0xF0 := hlo
    exact ⟨len, bev, tlv, c₁, c₀, rfl⟩

/-- Any other frame has the unknown format (R144). -/
theorem recipeFormat_of_other (f : Bytes) (hp : ¬ IsProfileFrame f) (hd : ¬ IsDefaultFrame f) : recipeFormat f = .unknown := by
  cases h : recipeFormat f with
  | unknown => rfl
  | profile => exact (hp (isProfileFrame_of_recipeFormat f h)).elim
  | default => exact (hd (isDefaultFrame_of_recipeFormat f h)).elim

/-- The tests of R144 for a profile-scoped frame. -/
theorem recipeFormat_eq_profile (f : Bytes) (hlen : 8 ≤ f.length) (hmarker : byteAt f 0 = 0xD0) (hword : commandWord f = 0xA6F0) :
    recipeFormat f = .profile := by
  have h4 : ¬ f.length < 4 := by omega
  have h8 : ¬ f.length < 8 := by omega
  simp [recipeFormat, hmarker, hword, h4, h8]

/-- The tests of R144 for a default frame. -/
theorem recipeFormat_eq_default (f : Bytes) (hlen : 7 ≤ f.length) (hmarker : byteAt f 0 = 0xD0) (hword : commandWord f = 0xB0F0) :
    recipeFormat f = .default := by
  have h4 : ¬ f.length < 4 := by omega
  have h7 : ¬ f.length < 7 := by omega
  simp [recipeFormat, hmarker, hword, h4, h7]

theorem recipeFormat_profileFrame (len prof bev : Byte) (tlv : Bytes) (c₁ c₀ : Byte) :
    recipeFormat ([0xD0, len, 0xA6, 0xF0, prof, bev] ++ tlv ++ [c₁, c₀]) = .profile :=
  recipeFormat_eq_profile _ (by simp) rfl (show be16 0xA6 0xF0 = 0xA6F0 by decide)

theorem recipeFormat_defaultFrame (len bev : Byte) (tlv : Bytes) (c₁ c₀ : Byte) :
    recipeFormat ([0xD0, len, 0xB0, 0xF0, bev] ++ tlv ++ [c₁, c₀]) = .default :=
  recipeFormat_eq_default _ (by simp) rfl (show be16 0xB0 0xF0 = 0xB0F0 by decide)

/-- The record `RCP_DEC` leaves is that of the frame's format (R142). -/
theorem decodeRecipe_res (c : TlvTables) (f : Bytes) (s : State) : (decodeRecipe c f s).res = .recipe (recipeRecord c f (recipeFormat f)) := by
  obtain ⟨flags, out, e⟩ := decodeRecipe_complete c f s
  rw [e, complete_res]

/-- The fields of a profile-scoped record (R142). -/
theorem resReads_recipeProfile (s : State) (len prof bev : Byte) (m : ParamMap)
    (h : s.res = .recipe ⟨.profile, some 0xA6F0, some len, some prof, some bev, some m⟩) :
    ResReads s [(.format, .byte 1), (.cmd, .half 0xA6F0), (.declaredLen, .byte len), (.profile, .byte prof), (.bevId, .byte bev),
      (.params, .params m), (.namedView, .names (m.map fun e => (tagName Config.tables e.1, e.2)))] :=
  resReads_of_res s _ _ h (by simp) fun f => by cases f <;> rfl

/-- The fields of a default record (R142). -/
theorem resReads_recipeDefault (s : State) (len bev : Byte) (m : ParamMap)
    (h : s.res = .recipe ⟨.default, some 0xB0F0, some len, none, some bev, some m⟩) :
    ResReads s [(.format, .byte 2), (.cmd, .half 0xB0F0), (.declaredLen, .byte len), (.bevId, .byte bev),
      (.params, .params m), (.namedView, .names (m.map fun e => (tagName Config.tables e.1, e.2)))] :=
  resReads_of_res s _ _ h (by simp) fun f => by cases f <;> rfl

/-- The one field of a record of unknown format (R142). -/
theorem resReads_recipeUnknown (s : State) (h : s.res = .recipe ⟨.unknown, none, none, none, none, none⟩) :
    ResReads s [(.format, .byte 0)] :=
  resReads_of_res s _ _ h (by simp) fun f => by cases f <;> rfl

theorem recipeRecord_profileFrame (c : TlvTables) (len prof bev : Byte) (tlv : Bytes) (c₁ c₀ : Byte) :
    recipeRecord c ([0xD0, len, 0xA6, 0xF0, prof, bev] ++ tlv ++ [c₁, c₀]) .profile =
      ⟨.profile, some 0xA6F0, some len, some prof, some bev, some (tlvDecode c tlv)⟩ := by
  have hbody := slice_between [0xD0, len, 0xA6, 0xF0, prof, bev] tlv [c₁, c₀]
  simp only [List.length_cons, List.length_nil, Nat.zero_add, Nat.reduceAdd] at hbody
  rw [recipeRecord, hbody]
  rfl

theorem recipeRecord_defaultFrame (c : TlvTables) (len bev : Byte) (tlv : Bytes) (c₁ c₀ : Byte) :
    recipeRecord c ([0xD0, len, 0xB0, 0xF0, bev] ++ tlv ++ [c₁, c₀]) .default =
      ⟨.default, some 0xB0F0, some len, none, some bev, some (tlvDecode c tlv)⟩ := by
  have hbody := slice_between [0xD0, len, 0xB0, 0xF0, bev] tlv [c₁, c₀]
  simp only [List.length_cons, List.length_nil, Nat.zero_add, Nat.reduceAdd] at hbody
  rw [recipeRecord, hbody]
  rfl

/-! ## Property frames -/

/-- The record of a decodable property frame (R147). -/
theorem decodeProperty_res_frame (f : Bytes) (s : State) (hlen : 6 ≤ f.length) (hmarker : byteAt f 0 = 0xD0) :
    (decodeProperty f s).res = .property ⟨.frame, some (commandWord f), some (byteAt f 1)⟩ := by
  rw [decodeProperty, if_pos ⟨hlen, hmarker⟩]
  rfl

/-- The record of any other frame (R145, R147). -/
theorem decodeProperty_res_other (f : Bytes) (s : State) (h : f.length < 6 ∨ f.head? ≠ some 0xD0) :
    (decodeProperty f s).res = .property ⟨.none, none, none⟩ := by
  have hno : ¬ (6 ≤ f.length ∧ byteAt f 0 = 0xD0) := by
    rintro ⟨hlen, hmarker⟩
    cases f with
    | nil => simp at hlen
    | cons m rest =>
      obtain rfl : m = 0xD0 := hmarker
      rcases h with h | h
      · omega
      · exact h rfl
  rw [decodeProperty, if_neg hno]
  rfl

theorem resReads_propertyFrame (s : State) (op : Half) (len : Byte) (h : s.res = .property ⟨.frame, some op, some len⟩) :
    ResReads s [(.kind, .byte 1), (.opcode, .half op), (.declaredLen, .byte len)] :=
  resReads_of_res s _ _ h (by simp) fun f => by cases f <;> rfl

theorem resReads_propertyNone (s : State) (h : s.res = .property ⟨.none, none, none⟩) : ResReads s [(.kind, .byte 0)] :=
  resReads_of_res s _ _ h (by simp) fun f => by cases f <;> rfl

/-- Settles O58: each clause is the record its command leaves, read field by field. -/
theorem resHoldsOnlyTheLastCommandsFields : Obligations.ResHoldsOnlyTheLastCommandsFields := by
  refine ⟨resReads_none _ rfl, fun i s t h ht hi => resReads_crc t _ (exec_crc_res i s t h ht hi),
    fun i s t h hi => resReads_none t (exec_res_none i s t h ?noneRow), fun i s t h ht => resReads_none t ((exec_endsClean i s t h).2 ht),
    fun d s hd => ⟨_, exec_tlvDec_of_fits d s hd, resReads_params _ _ rfl⟩, ?monitor,
    fun f s t h ht => resReads_rawlen t _ (monDec_parse_res f s t h ht), ?profile, ?default, ?unknown, ?property, ?noProperty⟩
  case noneRow =>
    rcases hi with rfl | rfl | rfl | ⟨_, rfl⟩ | ⟨_, rfl⟩ | ⟨_, _, _, rfl⟩ | ⟨_, rfl⟩ | ⟨_, _, _, _, rfl⟩ | ⟨_, rfl⟩ | ⟨_, rfl⟩ |
      ⟨_, rfl⟩ | ⟨_, rfl⟩ | ⟨_, rfl⟩ | ⟨_, rfl⟩ | ⟨_, rfl⟩ <;> rfl
  case monitor =>
    intro f s hf hlen h18 hcrc b
    refine ⟨_, exec_monDec_of_fits f s hf, resReads_monitor _ f h18 ?_⟩
    simp [decodeMonitor, monitorCheck_eq_none f hlen h18 hcrc]
  case profile =>
    intro len prof bev tlv c₁ c₀ s hlen
    refine ⟨_, exec_rcpDec_of_fits _ s (fits_frame [0xD0, len, 0xA6, 0xF0, prof, bev] tlv [c₁, c₀] hlen),
      resReads_recipeProfile _ len prof bev _ ?_⟩
    rw [decodeRecipe_res, recipeFormat_profileFrame, recipeRecord_profileFrame]
  case default =>
    intro len bev tlv c₁ c₀ s hlen
    refine ⟨_, exec_rcpDec_of_fits _ s (fits_frame [0xD0, len, 0xB0, 0xF0, bev] tlv [c₁, c₀] hlen), resReads_recipeDefault _ len bev _ ?_⟩
    rw [decodeRecipe_res, recipeFormat_defaultFrame, recipeRecord_defaultFrame]
  case unknown =>
    intro f s hf hp hd
    refine ⟨_, exec_rcpDec_of_fits f s hf, resReads_recipeUnknown _ ?_⟩
    rw [decodeRecipe_res, recipeFormat_of_other f hp hd]
    rfl
  case property =>
    intro len o₁ o₀ payload c₁ c₀ s hlen
    refine ⟨_, exec_propDec_of_fits _ s (fits_frame [0xD0, len, o₁, o₀] payload [c₁, c₀] hlen), resReads_propertyFrame _ (be16 o₁ o₀) len ?_⟩
    exact decodeProperty_res_frame _ s (by simp) rfl
  case noProperty =>
    intro f s hf hother
    exact ⟨_, exec_propDec_of_fits f s hf, resReads_propertyNone _ (decodeProperty_res_other f s hother)⟩

end Sys2Proof.Machine
end

section
/-! PROOFS. Every instruction keeps the invariants of the session registers (spec/45_aes_cbc R231), and a state that keeps R231 (a) lets every
instruction answer a next state (spec/30_encoding R61). -/

namespace Sys2Proof.Machine

/-! ## The session invariants under each change of the session registers -/

/-- R231 speaks of the session registers alone. -/
theorem sessionInv_of_sameSession (s t : State) (h : SameSession s t) (hs : SessionInv s) : SessionInv t := by
  obtain ⟨hsess, hlan, hsign, happ, hivApp, hdev, hivDev⟩ := h
  unfold SessionInv SecretsMatchSess SessNeedsLanKey SecretsFromOneDerive
  rw [hsess, hlan, hsign, happ, hivApp, hdev, hivDev]
  exact hs

/-- A live session is past `UNINIT` (R14). -/
theorem ne_uninit_of_live (x : Sess) (h : x.live = true) : x ≠ .uninit := by
  rintro rfl
  cases h

/-- Outside a live session nothing is said of where the secrets come from (R231 (c), (d)). -/
theorem sessionInv_of_not_live (s : State) (h : s.sess.live = false) (hsecrets : SecretsMatchSess s) (hlan : SessNeedsLanKey s) :
    SessionInv s :=
  ⟨hsecrets, hlan, fun hl => by simp [h] at hl⟩

/-- The end of a session restores R231, even under another LAN key (R188, R190). -/
theorem sessionInv_invalidate (s : State) (hsecrets : SecretsMatchSess s) (hlan : SessNeedsLanKey s) : SessionInv (invalidate s) := by
  cases hl : s.sess.live with
  | false =>
    rw [invalidate_of_not_live s hl]
    exact sessionInv_of_not_live s hl hsecrets hlan
  | true =>
    rw [invalidate_of_live s hl]
    exact sessionInv_of_not_live _ rfl ⟨rfl, rfl, rfl, rfl, rfl⟩ fun _ => hlan (ne_uninit_of_live _ hl)

/-- Five secrets derived from the LAN key the block holds (R189). -/
theorem sessionInv_installSecrets (k : Bytes) (n : Nonces) (s : State) (hk : s.lanKey = some k) :
    SessionInv (installSecrets (deriveSecrets k n) { s with sess := .derived }) :=
  ⟨⟨rfl, rfl, rfl, rfl, rfl⟩, fun _ => by simp [hk], fun _ => ⟨k, n, hk, rfl, rfl, rfl, fun _ => ⟨rfl, rfl⟩⟩⟩

/-- A message rotates an IV and makes a live session `ACTIVE`, where R231 (d) no longer binds the IVs (R221). -/
theorem sessionInv_active (s : State) (ivApp ivDev : Option Bytes) (hs : SessionInv s) (hl : s.sess.live = true)
    (happ : ivApp.isSome = true) (hdev : ivDev.isSome = true) :
    SessionInv { s with ivApp := ivApp, ivDev := ivDev, sess := .active } := by
  obtain ⟨⟨hkSign, hkApp, -, hkDev, -⟩, hlan, hderive⟩ := hs
  rw [hl] at hkSign hkApp hkDev
  obtain ⟨k, n, hk, hsign, happKey, hdevKey, -⟩ := hderive hl
  exact ⟨⟨hkSign, hkApp, happ, hkDev, hdev⟩, fun _ => hlan (ne_uninit_of_live _ hl),
    fun _ => ⟨k, n, hk, hsign, happKey, hdevKey, fun h => by cases h⟩⟩

theorem sessionInv_reset : SessionInv State.reset :=
  sessionInv_of_not_live _ rfl ⟨rfl, rfl, rfl, rfl, rfl⟩ fun h => (h rfl).elim

/-- Every instruction keeps R231: of the session registers it leaves all, ends the session, derives anew, or rotates one IV. -/
theorem exec_sessionInv (i : Instr) (s t : State) (hs : SessionInv s) (h : exec i s = .next t) : SessionInv t := by
  cases hi : usesSession i with
  | false => exact sessionInv_of_sameSession s t (exec_sameSession i s t hi h) hs
  | true =>
    have hraise (st : Status) : SessionInv (raise st s) := sessionInv_of_sameSession s _ (sameSession_raise st s) hs
    have hdone (o : Bytes) (s' : State) (h' : SessionInv s') : SessionInv (complete noFlags o .none s') :=
      sessionInv_of_sameSession s' _ (sameSession_complete _ _ _ s') h'
    have ⟨hsecrets, hlan, _⟩ := hs
    rcases usesSession_cases i hi with rfl | ⟨k, rfl⟩ | ⟨ar, dr, atm, dtm, rfl⟩ | rfl | ⟨p, rfl⟩ | ⟨c, rfl⟩ | ⟨p, rfl⟩
    · cases h
      exact sessionInv_reset
    · rcases execSetKey_cases k s with ⟨-, e⟩ | ⟨-, e⟩ <;> cases e.symm.trans h
      · exact hraise _
      · exact hdone _ _ (sessionInv_invalidate { s with lanKey := some k } hsecrets fun _ => Option.some_ne_none k)
    · rcases execDerive_cases ar dr atm dtm s with e | ⟨-, e⟩ | ⟨k, hk, e⟩ <;> cases e.symm.trans h
      · exact hraise _
      · exact hraise _
      · exact hdone _ _ (sessionInv_installSecrets k _ s hk)
    · cases h
      exact hdone _ _ (sessionInv_invalidate s hsecrets hlan)
    · rcases execEnc_cases p s with ⟨st, e, -⟩ | ⟨reg, -, e, -⟩ | ⟨k, v, hl, -, -, -, -, e⟩ <;> cases e.symm.trans h
      · exact hraise st
      · obtain ⟨-, -, -, -, hivDev⟩ := hsecrets
        exact hdone _ _ (sessionInv_active s (some _) s.ivDev hs hl rfl (hivDev.trans hl))
    · rcases execDec_cases c s with ⟨st, e, -⟩ | ⟨reg, -, e, -⟩ | ⟨k, v, hl, -, -, -, -, -, e⟩ <;> cases e.symm.trans h
      · exact hraise st
      · obtain ⟨-, -, hivApp, -, -⟩ := hsecrets
        exact hdone _ _ (sessionInv_active s s.ivApp (some _) hs hl (hivApp.trans hl) rfl)
    · exact sessionInv_of_sameSession s t (sign_sameSession p s t h) hs

/-! ## No instruction stops in a state that keeps R231 (a) -/

/-- A secret that matches a live session is there. -/
theorem secret_ne_none (x : Sess) (v : Option Bytes) (h : v.isSome = x.live) (hl : x.live = true) : v ≠ none :=
  Option.isSome_iff_ne_none.1 (h.trans hl)

theorem enc_completes (p : Bytes) (s : State) (hs : SecretsMatchSess s) : Completes (exec (.enc p) s) := by
  obtain ⟨-, happ, hivApp, -, -⟩ := hs
  rcases execEnc_cases p s with ⟨st, e, -⟩ | ⟨reg, hl, -, hnone | hnone⟩ | ⟨k, v, -, -, -, -, -, e⟩
  · exact ⟨_, e⟩
  · exact (secret_ne_none _ _ happ hl hnone).elim
  · exact (secret_ne_none _ _ hivApp hl hnone).elim
  · exact ⟨_, e⟩

theorem dec_completes (c : Bytes) (s : State) (hs : SecretsMatchSess s) : Completes (exec (.dec c) s) := by
  obtain ⟨-, -, -, hdev, hivDev⟩ := hs
  rcases execDec_cases c s with ⟨st, e, -⟩ | ⟨reg, hl, -, hnone | hnone⟩ | ⟨k, v, -, -, -, -, -, -, e⟩
  · exact ⟨_, e⟩
  · exact (secret_ne_none _ _ hdev hl hnone).elim
  · exact (secret_ne_none _ _ hivDev hl hnone).elim
  · exact ⟨_, e⟩

theorem sign_completes (p : Bytes) (s : State) (hs : SecretsMatchSess s) : Completes (exec (.sign p) s) := by
  obtain ⟨hsign, -, -, -, -⟩ := hs
  rcases execSign_cases p s with ⟨st, e, -⟩ | ⟨hl, -, hnone⟩ | ⟨k, -, -, -, e⟩
  · exact ⟨_, e⟩
  · exact (secret_ne_none _ _ hsign hl hnone).elim
  · exact ⟨_, e⟩

theorem setKey_completes (k : Bytes) (s : State) : Completes (exec (.setKey k) s) := by
  rcases execSetKey_cases k s with ⟨-, e⟩ | ⟨-, e⟩ <;> exact ⟨_, e⟩

theorem derive_completes (ar dr atm dtm : Bytes) (s : State) : Completes (exec (.derive ar dr atm dtm) s) := by
  rcases execDerive_cases ar dr atm dtm s with e | ⟨-, e⟩ | ⟨k, -, e⟩ <;> exact ⟨_, e⟩

/-- Only `ENC`, `DEC` and `SIGN` read secrets, which R231 (a) provides; everything else answers from every state (R61). -/
theorem exec_completes (i : Instr) (s : State) (hs : SecretsMatchSess s) : Completes (exec i s) := by
  cases hi : usesSession i with
  | false =>
    obtain ⟨e, -, hend⟩ := exec_endsPlainly i hi
    exact ⟨_, (hend s).1⟩
  | true =>
    rcases usesSession_cases i hi with rfl | ⟨k, rfl⟩ | ⟨ar, dr, atm, dtm, rfl⟩ | rfl | ⟨p, rfl⟩ | ⟨c, rfl⟩ | ⟨p, rfl⟩
    · exact ⟨_, rfl⟩
    · exact setKey_completes k s
    · exact derive_completes ar dr atm dtm s
    · exact ⟨_, rfl⟩
    · exact enc_completes p s hs
    · exact dec_completes c s hs
    · exact sign_completes p s hs

end Sys2Proof.Machine
end

section
/-! PROOFS. The statements about the command port, the atomic step and the output buffer (spec/20_memory): a step runs the oldest offer and
holds the others (R49, R50, D2), no run from a good state stops (R54, R304), and what a host reads of the buffer (R41). -/

namespace Sys2Proof.Machine

/-! ## The port -/

/-- A whole offer runs as the instruction it decodes to (R50, R60). -/
theorem step_of_decoded (s : State) (o : Offer) (rest : List Offer) (i : Instr) (hp : s.port = o :: rest) (hd : decodeOffer o = .ok i) :
    step s = exec i { s with port := rest } := by
  simp [step, fetch_cons s o rest hp, hd]

/-- Settles O5. -/
theorem stepRunsTheOldestOffer : Obligations.StepRunsTheOldestOffer :=
  ⟨step_of_decoded, step_of_port_empty⟩

/-- No instruction looks at the port or writes it; `RESET` keeps it by the model's choice (R49; notes/assumptions/2.md). -/
theorem exec_port (i : Instr) (s t : State) (h : exec i s = .next t) : t.port = s.port := by
  cases hi : usesSession i with
  | false =>
    obtain ⟨e, -, hend⟩ := exec_endsPlainly i hi
    cases (hend s).1.symm.trans h
    rfl
  | true =>
    rcases usesSession_cases i hi with rfl | ⟨k, rfl⟩ | ⟨ar, dr, atm, dtm, rfl⟩ | rfl | ⟨p, rfl⟩ | ⟨c, rfl⟩ | ⟨p, rfl⟩
    · cases h
      rfl
    · rcases execSetKey_cases k s with ⟨-, e⟩ | ⟨-, e⟩ <;> cases e.symm.trans h <;> simp
    · rcases execDerive_cases ar dr atm dtm s with e | ⟨-, e⟩ | ⟨k, -, e⟩ <;> cases e.symm.trans h <;> rfl
    · cases h
      simp
    · rcases execEnc_cases p s with ⟨st, e, -⟩ | ⟨reg, -, e, -⟩ | ⟨k, v, -, -, -, -, -, e⟩ <;> cases e.symm.trans h <;> rfl
    · rcases execDec_cases c s with ⟨st, e, -⟩ | ⟨reg, -, e, -⟩ | ⟨k, v, -, -, -, -, -, -, e⟩ <;> cases e.symm.trans h <;> rfl
    · rcases execSign_cases p s with ⟨st, e, -⟩ | ⟨-, e, -⟩ | ⟨k, -, -, -, e⟩ <;> cases e.symm.trans h <;> rfl

/-- Settles O18: the step takes the head of the port, and neither an instruction nor `BADCMD` touches the rest. -/
theorem heldOffersAreNeverDropped : Obligations.HeldOffersAreNeverDropped := by
  intro s t h
  rcases step_cases s with ⟨hp, e⟩ | ⟨o, rest, i, hp, -, e⟩ | ⟨o, rest, err, hp, -, e⟩
  · cases e.symm.trans h
    rw [hp]
    rfl
  · rw [hp]
    exact exec_port i { s with port := rest } t (e.symm.trans h)
  · cases e.symm.trans h
    rw [hp]
    rfl

/-! ## Runs from good states -/

/-- Whether a state is good does not depend on what is offered. -/
theorem inv_withPort (s : State) (offers : List Offer) (h : Inv s) : Inv { s with port := offers } := h

theorem inv_reset : Inv State.reset :=
  ⟨sessionInv_reset, widthInv_clearSecrets State.reset fun _ hk => (by cases hk), (endsClean_resetState State.reset).1⟩

/-- An instruction started in a good state completes in a good state. -/
theorem exec_inv (i : Instr) (s : State) (h : Inv s) : ∃ t, exec i s = .next t ∧ Inv t := by
  obtain ⟨hsession, hwidth, -⟩ := h
  obtain ⟨t, ht⟩ := exec_completes i s hsession.1
  exact ⟨t, ht, exec_sessionInv i s t hsession ht, exec_widthInv i s t hwidth ht, (exec_endsClean i s t ht).1⟩

/-- `BADCMD` raised in a good state leaves a good state (R64, R271). -/
theorem badCommand_inv (s : State) (h : Inv s) : Inv (badCommand s) := by
  obtain ⟨hsession, hwidth, -⟩ := h
  have hsame : SameSession s (badCommand s) := sameSession_raise .badCmd s
  exact ⟨sessionInv_of_sameSession s _ hsame hsession, widthInv_of_sameSession s _ hsame hwidth, (endsClean_raise .badCmd s).1⟩

/-- A step from a good state answers a good state, whatever the oldest offer is (R54, R304). -/
theorem step_inv (s : State) (h : Inv s) : ∃ t, step s = .next t ∧ Inv t := by
  rcases step_cases s with ⟨-, e⟩ | ⟨o, rest, i, -, -, e⟩ | ⟨o, rest, err, -, -, e⟩
  · exact ⟨s, e, h⟩
  · rw [e]
    exact exec_inv i _ (inv_withPort s rest h)
  · exact ⟨_, e, badCommand_inv _ (inv_withPort s rest h)⟩

/-- What holds of a state and survives every step, which answers, holds after every run, which answers. -/
theorem run_of_step_invariant (P : State → Prop) (hstep : ∀ s, P s → ∃ t, step s = .next t ∧ P t) (k : Nat) (s : State) (hs : P s) :
    ∃ t, Host.Core.run core k s = .next t ∧ P t := by
  induction k generalizing s with
  | zero => exact ⟨s, rfl, hs⟩
  | succ k ih =>
    obtain ⟨u, hu, hPu⟩ := hstep s hs
    have hcore : core.step s = .next u := hu
    simpa only [Host.Core.run, hcore] using ih u hPu

/-- Settles O13: goodness is a step invariant under which every step answers, and reset is good with any port. -/
theorem runsFromGoodStatesNeverStop : Obligations.RunsFromGoodStatesNeverStop :=
  ⟨fun s hs k => run_of_step_invariant Inv step_inv k s hs,
    fun offers k => run_of_step_invariant Inv step_inv k _ (inv_withPort _ offers inv_reset)⟩

/-! ## Host reads of the buffer -/

/-- A read of the buffer below `OLEN` gives the byte (R41). -/
theorem hostRead_obuf_of_lt (s : State) (i : Nat) (b : Byte) (h : s.obuf[i]? = some b) : hostRead s (.obuf i) = .ok (.byte b) := by
  simp [hostRead, Memory.read, h]

/-- A read of the buffer at or beyond `OLEN` faults (R41). -/
theorem hostRead_obuf_of_le (s : State) (i : Nat) (h : olen s ≤ i) : hostRead s (.obuf i) = .error (.obufIndex i) := by
  have hnone : s.obuf[i]? = none := List.getElem?_eq_none h
  simp [hostRead, Memory.read, hnone]

/-- Settles O57: both sides of `OLEN`, and the registers by their definition. -/
theorem hostReadsOfTheBuffer : Obligations.HostReadsOfTheBuffer := by
  refine fun s => ⟨fun i hi => ?below, hostRead_obuf_of_le s, rfl, rfl, rfl, rfl, rfl⟩
  have hbyte : s.obuf[i]? = some s.obuf[i] := List.getElem?_eq_getElem hi
  exact ⟨_, hbyte, hostRead_obuf_of_lt s i _ hbyte⟩

end Sys2Proof.Machine
end

section
/-! PROOFS. The operands of a descriptor (spec/30_encoding R63): what each reader answers on an encoded operand, and that a reader looks no
further than its operand. Every row of R62 is read by a chain of these readers (`OperandParser`), so that what holds of each reader holds of
`decode`. -/

namespace Sys2Proof

open Machine (Fits bytesOperands commandOpcodes reservedOpcode allTags)

/-! ## Entries of a mapping -/

/-- A tag above all others goes to the end (R22). -/
theorem ParamMap.set_of_above (m : ParamMap) (t : Byte) (v : Half) (h : ∀ e ∈ m, e.1 < t) : m.set t v = m ++ [(t, v)] := by
  induction m with
  | nil => rfl
  | cons e m ih =>
    obtain ⟨u, w⟩ := e
    obtain ⟨hu, hm⟩ := List.forall_mem_cons.1 h
    have hlt : ¬ t < u := BitVec.not_lt.2 (BitVec.le_of_lt hu)
    have hne : t ≠ u := (BitVec.ne_of_lt hu).symm
    rw [ParamMap.set, if_neg hlt, if_neg hne, ih hm, List.cons_append]

/-- A mapping with entries set in order, "a later entry with the same tag overwrites an earlier one" (R63). -/
def ParamMap.setAll (m : ParamMap) (entries : List (Byte × Half)) : ParamMap := entries.foldl (fun m e => m.set e.1 e.2) m

theorem ParamMap.setAll_sorted (m : ParamMap) (entries : List (Byte × Half)) (h : m.Sorted) : (m.setAll entries).Sorted := by
  induction entries generalizing m with
  | nil => exact h
  | cons e entries ih => exact ih _ (ParamMap.sorted_set m e.1 e.2 h)

theorem ParamMap.setAll_concat (m : ParamMap) (entries : List (Byte × Half)) (e : Byte × Half) :
    m.setAll (entries ++ [e]) = (m.setAll entries).set e.1 e.2 := by simp [ParamMap.setAll]

/-- The last entry of a tag counts (R63). -/
theorem ParamMap.get?_setAll (entries : List (Byte × Half)) (t : Byte) :
    (ParamMap.setAll [] entries).get? t = (entries.reverse.find? fun e => e.1 == t).map Prod.snd := by
  induction entries using List.reverseRecOn with
  | nil => rfl
  | append_singleton entries e ih =>
    rw [ParamMap.setAll_concat, List.reverse_concat]
    by_cases h : e.1 = t
    · subst h
      simp
    · rw [ParamMap.get?_set_other _ _ _ _ (Ne.symm h), ih, List.find?_cons_of_neg (by simpa using h)]

/-- Entries already in canonical order are appended one by one. -/
theorem ParamMap.setAll_of_sorted_append (m : ParamMap) (entries : List (Byte × Half)) (h : ParamMap.Sorted (m ++ entries)) :
    m.setAll entries = m ++ entries := by
  induction entries generalizing m with
  | nil => simp [ParamMap.setAll]
  | cons e entries ih =>
    have habove : ∀ d ∈ m, d.1 < e.1 := fun d hd => (List.pairwise_append.1 h).2.2 d hd e List.mem_cons_self
    have hset : m.set e.1 e.2 = m ++ [e] := ParamMap.set_of_above m e.1 e.2 habove
    calc m.setAll (e :: entries) = ParamMap.setAll (m ++ [e]) entries := by rw [← hset]; rfl
      _ = (m ++ [e]) ++ entries := ih (m ++ [e]) (by simpa using h)
      _ = m ++ e :: entries := by simp

/-- A canonical mapping is rebuilt from its own entries (R22). -/
theorem ParamMap.setAll_of_sorted (m : ParamMap) (h : m.Sorted) : ParamMap.setAll [] m = m :=
  ParamMap.setAll_of_sorted_append [] m h

/-- A canonical mapping has at most one entry for each of the 256 tags (R22). -/
theorem ParamMap.length_le_of_sorted (m : ParamMap) (h : m.Sorted) : m.length ≤ 256 := by
  have hnodup : (m.map Prod.fst).Nodup := List.pairwise_map.2 (h.imp BitVec.ne_of_lt)
  simpa using (hnodup.subperm (l₂ := allTags) fun t _ => Machine.mem_allTags t).length_le

/-! ## Readers on encoded operands -/

/-- A length or count below 65536 is read back from its two bytes (R63). -/
theorem toNat_be16_len16 (n : Nat) (h : n < 65536) : (be16 (hi8 (BitVec.ofNat 16 n)) (lo8 (BitVec.ofNat 16 n))).toNat = n := by
  rw [be16_hi8_lo8]
  exact Nat.mod_eq_of_lt h

theorem takeBytes_encodeBytes (b rest : Bytes) (h : Fits b) : takeBytes (encodeBytes b ++ rest) = some (b, rest) := by
  have hlen := toNat_be16_len16 b.length (Nat.lt_succ_of_le h)
  have hle : b.length ≤ (b ++ rest).length := by simp
  simp only [encodeBytes, len16, List.cons_append, List.nil_append, takeBytes, hlen, if_pos hle, List.take_left, List.drop_left]

/-- The encoded entries are read in order and nothing after them is (R63). -/
theorem readEntries_encoded (entries : List (Byte × Half)) (rest : Bytes) (m : ParamMap) :
    readEntries entries.length ((entries.flatMap fun e => [e.1, hi8 e.2, lo8 e.2]) ++ rest) m = m.setAll entries := by
  induction entries generalizing m with
  | nil => simp [readEntries, ParamMap.setAll]
  | cons e entries ih => simpa [readEntries, ParamMap.setAll] using ih (m.set e.1 e.2)

theorem length_encodedEntries (entries : List (Byte × Half)) :
    (entries.flatMap fun e => [e.1, hi8 e.2, lo8 e.2]).length = 3 * entries.length := by
  induction entries with
  | nil => rfl
  | cons e entries ih => simp only [List.flatMap_cons, List.length_append, List.length_cons, List.length_nil, ih]; omega

/-- A `pmap` operand with any list of entries reads as the mapping they set in order (R63). -/
theorem takePmap_encodePmap (entries : List (Byte × Half)) (rest : Bytes) (h : entries.length < 65536) :
    takePmap (encodePmap entries ++ rest) = some (ParamMap.setAll [] entries, rest) := by
  have hcount := toNat_be16_len16 entries.length h
  have hlen := length_encodedEntries entries
  have hdrop : ((entries.flatMap fun e => [e.1, hi8 e.2, lo8 e.2]) ++ rest).drop (3 * entries.length) = rest := by
    rw [← hlen, List.drop_left]
  have hle : 3 * entries.length ≤ ((entries.flatMap fun e => [e.1, hi8 e.2, lo8 e.2]) ++ rest).length := by
    rw [List.length_append, hlen]
    omega
  simp only [encodePmap, len16, List.cons_append, List.nil_append, takePmap, hcount, readEntries_encoded, hdrop, if_pos hle]

/-- A canonical mapping is read back from its encoding. -/
theorem takePmap_encodePmap_of_sorted (m : ParamMap) (rest : Bytes) (h : m.Sorted) : takePmap (encodePmap m ++ rest) = some (m, rest) := by
  have hlen := ParamMap.length_le_of_sorted m h
  rw [takePmap_encodePmap m rest (by omega), ParamMap.setAll_of_sorted m h]

/-! ## Readers on longer input -/

theorem takeU8_append (b extra rest : Bytes) (v : Byte) (h : takeU8 b = some (v, rest)) :
    takeU8 (b ++ extra) = some (v, rest ++ extra) := by
  cases b with
  | nil => cases h
  | cons x b => cases h; rfl

theorem takeBytes_append (b extra rest v : Bytes) (h : takeBytes b = some (v, rest)) :
    takeBytes (b ++ extra) = some (v, rest ++ extra) := by
  match b, h with
  | hi :: lo :: tail, h =>
    simp only [takeBytes] at h
    split at h
    · next hle =>
      cases h
      have hle' : (be16 hi lo).toNat ≤ (tail ++ extra).length := by
        rw [List.length_append]
        omega
      simp only [List.cons_append, takeBytes, if_pos hle', List.take_append_of_le_length hle, List.drop_append_of_le_length hle]
    · cases h

/-- The entries of a whole `pmap` operand stand before whatever follows. -/
theorem readEntries_append (n : Nat) (b extra : Bytes) (m : ParamMap) (h : 3 * n ≤ b.length) :
    readEntries n (b ++ extra) m = readEntries n b m := by
  induction n generalizing b m with
  | zero => simp [readEntries]
  | succ n ih =>
    match b, h with
    | t :: hi :: lo :: tail, h =>
      simp only [List.length_cons] at h
      simpa only [List.cons_append, readEntries] using ih tail _ (by omega)

theorem takePmap_append (b extra rest : Bytes) (m : ParamMap) (h : takePmap b = some (m, rest)) :
    takePmap (b ++ extra) = some (m, rest ++ extra) := by
  match b, h with
  | hi :: lo :: tail, h =>
    simp only [takePmap] at h
    split at h
    · next hle =>
      cases h
      have hle' : 3 * (be16 hi lo).toNat ≤ (tail ++ extra).length := by
        rw [List.length_append]
        omega
      simp only [List.cons_append, takePmap, if_pos hle', readEntries_append _ _ _ _ hle, List.drop_append_of_le_length hle]
    · cases h

/-- A 16-bit length cannot exceed `MAX_OPERAND` (R64). -/
theorem fits_of_takeBytes (b v rest : Bytes) (h : takeBytes b = some (v, rest)) : Fits v := by
  match b, h with
  | hi :: lo :: tail, h =>
    simp only [takeBytes] at h
    split at h
    · cases h
      exact (List.length_take_le _ _).trans (Nat.le_of_lt_succ (be16 hi lo).isLt)
    · cases h

/-! ## Chains of readers -/

/-- A chain that succeeds has read its first operand. -/
theorem operandThen_eq_ok {α : Type} (r : Option (α × Bytes)) (k : α → Bytes → Except DecodeError Instr) (i : Instr)
    (h : operandThen r k = .ok i) : ∃ v rest, r = some (v, rest) ∧ k v rest = .ok i := by
  match r, h with
  | some (v, rest), h => exact ⟨v, rest, rfl, h⟩

theorem finish_eq_ok (i j : Instr) (b : Bytes) (h : finish i b = .ok j) : b = [] ∧ i = j := by
  cases b with
  | nil => cases h; exact ⟨rfl, rfl⟩
  | cons x b => cases h

/-- `p` reads operands one after another and then expects the end of the descriptor; the `bytes` operands of the instruction it answers are
those read before it, `taken`, and those it reads itself (R63). -/
inductive OperandParser : List Bytes → (Bytes → Except DecodeError Instr) → Prop
  | finish (i : Instr) : OperandParser (bytesOperands i) (finish i)
  | u8 {taken : List Bytes} {k : Byte → Bytes → Except DecodeError Instr} (h : ∀ v, OperandParser taken (k v)) :
      OperandParser taken fun b => operandThen (takeU8 b) k
  | bytes {taken : List Bytes} {k : Bytes → Bytes → Except DecodeError Instr} (h : ∀ v, OperandParser (taken ++ [v]) (k v)) :
      OperandParser taken fun b => operandThen (takeBytes b) k
  | pmap {taken : List Bytes} {k : ParamMap → Bytes → Except DecodeError Instr} (h : ∀ v, OperandParser taken (k v)) :
      OperandParser taken fun b => operandThen (takePmap b) k

/-- Bytes after what a chain accepts are left over: each reader stops where its operand ends (R60). -/
theorem OperandParser.append_trailing {taken : List Bytes} {p : Bytes → Except DecodeError Instr} (hp : OperandParser taken p)
    (b extra : Bytes) (i : Instr) (h : p b = .ok i) (hextra : extra ≠ []) : p (b ++ extra) = .error .trailing := by
  induction hp generalizing b with
  | finish j =>
    obtain ⟨rfl, -⟩ := finish_eq_ok j i b h
    obtain ⟨x, tail, rfl⟩ := List.exists_cons_of_ne_nil hextra
    rfl
  | u8 _ ih =>
    obtain ⟨v, rest, hv, hk⟩ := operandThen_eq_ok _ _ _ h
    simpa only [takeU8_append b extra rest v hv, operandThen] using ih v rest hk
  | bytes _ ih =>
    obtain ⟨v, rest, hv, hk⟩ := operandThen_eq_ok _ _ _ h
    simpa only [takeBytes_append b extra rest v hv, operandThen] using ih v rest hk
  | pmap _ ih =>
    obtain ⟨v, rest, hv, hk⟩ := operandThen_eq_ok _ _ _ h
    simpa only [takePmap_append b extra rest v hv, operandThen] using ih v rest hk

/-- Every `bytes` operand of what a chain answers was read with a 16-bit length (R64). -/
theorem OperandParser.fits {taken : List Bytes} {p : Bytes → Except DecodeError Instr} (hp : OperandParser taken p) (b : Bytes) (i : Instr)
    (h : p b = .ok i) (htaken : ∀ x ∈ taken, Fits x) : ∀ x ∈ bytesOperands i, Fits x := by
  induction hp generalizing b with
  | finish j =>
    obtain ⟨-, rfl⟩ := finish_eq_ok j i b h
    exact htaken
  | u8 _ ih | pmap _ ih =>
    obtain ⟨v, rest, -, hk⟩ := operandThen_eq_ok _ _ _ h
    exact ih v rest hk htaken
  | bytes _ ih =>
    obtain ⟨v, rest, hv, hk⟩ := operandThen_eq_ok _ _ _ h
    refine ih v rest hk fun x hx => ?_
    rcases List.mem_append.1 hx with hx | hx
    · exact htaken x hx
    · exact List.mem_singleton.1 hx ▸ fits_of_takeBytes b v rest hv

/-- The rows of R62 with one `bytes` operand. -/
theorem operandParser_oneBytes (ctor : Bytes → Instr) (h : ∀ d, bytesOperands (ctor d) = [d]) : OperandParser [] (decodeOneBytes ctor) :=
  .bytes fun d => h d ▸ .finish (ctor d)

/-! ## The rows of the opcode column -/

/-- The ranges of R65 are the complement of the opcode column of R62. -/
theorem reservedOpcode_iff (op : Byte) : reservedOpcode op = true ↔ op ∉ commandOpcodes := by
  simp only [reservedOpcode, commandOpcodes, Bool.or_eq_true, Bool.and_eq_true, decide_eq_true_eq, BitVec.le_def, List.mem_cons,
    List.not_mem_nil, or_false, ← BitVec.toNat_inj, BitVec.reduceToNat]
  omega

/-- A listed opcode byte selects a chain of operand readers (R62, R63). -/
theorem decode_listed (op : Byte) (h : op ∈ commandOpcodes) : ∃ p, OperandParser [] p ∧ ∀ rest, decode (op :: rest) = p rest := by
  simp only [commandOpcodes, List.mem_cons, List.not_mem_nil, or_false] at h
  rcases h with rfl | rfl | rfl | rfl | rfl | rfl | rfl | rfl | rfl | rfl | rfl | rfl | rfl | rfl | rfl | rfl | rfl | rfl | rfl | rfl |
    rfl | rfl
  · exact ⟨_, .finish .nop, fun _ => rfl⟩
  · exact ⟨_, .finish .reset, fun _ => rfl⟩
  · exact ⟨_, operandParser_oneBytes .crc16 fun _ => rfl, fun _ => rfl⟩
  · exact ⟨_, .finish .crcInit, fun _ => rfl⟩
  · exact ⟨_, operandParser_oneBytes .crcUpd fun _ => rfl, fun _ => rfl⟩
  · exact ⟨_, operandParser_oneBytes .tlvDec fun _ => rfl, fun _ => rfl⟩
  · exact ⟨_, .pmap fun m => .finish (.tlvEnc m), fun _ => rfl⟩
  · exact ⟨_, .u8 fun t => .finish (.tlvName t), fun _ => rfl⟩
  · exact ⟨_, operandParser_oneBytes .monDec fun _ => rfl, fun _ => rfl⟩
  · exact ⟨_, operandParser_oneBytes .rcpDec fun _ => rfl, fun _ => rfl⟩
  · exact ⟨_, operandParser_oneBytes .propDec fun _ => rfl, fun _ => rfl⟩
  · exact ⟨_, .u8 fun bev => .u8 fun trig => .pmap fun m => .finish (.brew bev trig m), fun _ => rfl⟩
  · exact ⟨_, operandParser_oneBytes .setKey fun _ => rfl, fun _ => rfl⟩
  · exact ⟨_, .bytes fun ar => .bytes fun dr => .bytes fun atm => .bytes fun dtm => .finish (.derive ar dr atm dtm), fun _ => rfl⟩
  · exact ⟨_, .finish .expire, fun _ => rfl⟩
  · exact ⟨_, operandParser_oneBytes .enc fun _ => rfl, fun _ => rfl⟩
  · exact ⟨_, operandParser_oneBytes .dec fun _ => rfl, fun _ => rfl⟩
  · exact ⟨_, operandParser_oneBytes .sign fun _ => rfl, fun _ => rfl⟩
  · exact ⟨_, operandParser_oneBytes .b64e fun _ => rfl, fun _ => rfl⟩
  · exact ⟨_, operandParser_oneBytes .b64d fun _ => rfl, fun _ => rfl⟩
  · exact ⟨_, operandParser_oneBytes .hexe fun _ => rfl, fun _ => rfl⟩
  · exact ⟨_, operandParser_oneBytes .hexd fun _ => rfl, fun _ => rfl⟩

/-- A byte outside the opcode column does not decode, whatever follows it (R65). -/
theorem decode_unlisted (op : Byte) (rest : Bytes) (h : op ∉ commandOpcodes) : decode (op :: rest) = .error (.reservedOpcode op) := by
  have hne : ∀ x ∈ commandOpcodes, op.toNat ≠ x.toNat := fun x hx heq => h (BitVec.eq_of_toNat_eq heq ▸ hx)
  simp only [commandOpcodes, List.forall_mem_cons, BitVec.reduceToNat] at hne
  rw [decode]
  split
  case h_23 => rfl
  all_goals simp_all only [not_true_eq_false, false_and, and_false, ne_eq]

/-- What decodes is a listed opcode byte and the operands its chain of readers accepts (R63). -/
theorem exists_parser_of_decode (d : Bytes) (i : Instr) (h : decode d = .ok i) :
    ∃ op rest p, d = op :: rest ∧ OperandParser [] p ∧ (∀ b, decode (op :: b) = p b) ∧ p rest = .ok i := by
  match d, h with
  | op :: rest, h =>
    by_cases hop : op ∈ commandOpcodes
    · obtain ⟨p, hp, heq⟩ := decode_listed op hop
      exact ⟨op, rest, p, rfl, hp, heq, heq rest ▸ h⟩
    · rw [decode_unlisted op rest hop] at h
      cases h

end Sys2Proof
end

section
/-! PROOFS. The statements about descriptors, wire units and the outcome of a command (spec/30_encoding R60 to R71): decoding inverts encoding,
a descriptor ends where it ends, what does not decode raises `BADCMD` (R64, R65), and every command completes (R61). -/

namespace Sys2Proof.Machine

/-! ## Decoding inverts encoding -/

theorem fits_of_operandFits (b : Bytes) (h : operandFits b = true) : Fits b := of_decide_eq_true h

/-- The last operand of a descriptor, with nothing after it. -/
theorem takeBytes_encodeBytes_end (b : Bytes) (h : Fits b) : takeBytes (encodeBytes b) = some (b, []) := by
  simpa using takeBytes_encodeBytes b [] h

theorem takePmap_encodePmap_end (m : ParamMap) (h : m.Sorted) : takePmap (encodePmap m) = some (m, []) := by
  simpa using takePmap_encodePmap_of_sorted m [] h

theorem decodeOneBytes_encodeBytes (ctor : Bytes → Instr) (b : Bytes) (h : operandFits b = true) :
    decodeOneBytes ctor (encodeBytes b) = .ok (ctor b) := by
  rw [decodeOneBytes, takeBytes_encodeBytes_end b (fits_of_operandFits b h)]
  rfl

/-- `TLV_ENC` with the one operand its bytes hold (R62). -/
theorem decode_tlvEnc_of_takePmap (operand : Bytes) (m : ParamMap) (h : takePmap operand = some (m, [])) :
    decode (0x21 :: operand) = .ok (.tlvEnc m) := by
  show operandThen (takePmap operand) _ = _
  rw [h]
  rfl

/-- `BREW` with the three operands its bytes hold (R62). -/
theorem decode_brew_of_takePmap (bev trig : Byte) (operand : Bytes) (m : ParamMap) (h : takePmap operand = some (m, [])) :
    decode (0x40 :: bev :: trig :: operand) = .ok (.brew bev trig m) := by
  show operandThen (takePmap operand) _ = _
  rw [h]
  rfl

/-- `DERIVE` reads its four nonce fields in order (R62). -/
theorem decode_encode_derive (ar dr atm dtm : Bytes) (har : Fits ar) (hdr : Fits dr) (hatm : Fits atm) (hdtm : Fits dtm) :
    decode (encode (.derive ar dr atm dtm)) = .ok (.derive ar dr atm dtm) := by
  show operandThen (takeBytes (encodeBytes ar ++ encodeBytes dr ++ encodeBytes atm ++ encodeBytes dtm)) _ = _
  simp only [List.append_assoc, takeBytes_encodeBytes _ _ har, takeBytes_encodeBytes _ _ hdr, takeBytes_encodeBytes _ _ hatm,
    takeBytes_encodeBytes_end dtm hdtm, operandThen, finish]

/-- The CRC field of a frame is its last two bytes, high byte first (R66). -/
theorem splitCrc_append (body : Bytes) (crc : Half) : splitCrc (body ++ [hi8 crc, lo8 crc]) = some (body, crc) := by
  simp [splitCrc]

theorem crcThen_append (kind : WireKind) (body : Bytes) (crc : Half) (ctor : Bytes → Half → Instr) :
    crcThen kind (body ++ [hi8 crc, lo8 crc]) ctor = .ok (ctor body crc) := by
  rw [crcThen, splitCrc_append]

theorem decodeWire_encode_frameBrew (len bev trig : Byte) (tlv : Bytes) (crc : Half) :
    decodeWire .brew (encode (.frameBrew len bev trig tlv crc)) = .ok (.frameBrew len bev trig tlv crc) :=
  crcThen_append .brew tlv crc (.frameBrew len bev trig)

theorem decodeWire_encode_frameRecipeProfile (len prof bev : Byte) (tlv : Bytes) (crc : Half) :
    decodeWire .recipeProfile (encode (.frameRecipeProfile len prof bev tlv crc)) = .ok (.frameRecipeProfile len prof bev tlv crc) :=
  crcThen_append .recipeProfile tlv crc (.frameRecipeProfile len prof bev)

theorem decodeWire_encode_frameRecipeDefault (len bev : Byte) (tlv : Bytes) (crc : Half) :
    decodeWire .recipeDefault (encode (.frameRecipeDefault len bev tlv crc)) = .ok (.frameRecipeDefault len bev tlv crc) :=
  crcThen_append .recipeDefault tlv crc (.frameRecipeDefault len bev)

theorem decodeWire_encode_frameProperty (len : Byte) (op : Half) (payload : Bytes) (crc : Half) :
    decodeWire .property (encode (.frameProperty len op payload crc)) = .ok (.frameProperty len op payload crc) := by
  simp only [encode, List.cons_append, List.nil_append, decodeWire, if_true, be16_hi8_lo8, crcThen_append]

/-- Byte arrays of two and three entries are given by their entries. -/
theorem vector_two_eta (v : Vector Byte 2) : #v[v[0], v[1]] = v := by
  ext i hi
  match i, hi with
  | 0, _ => rfl
  | 1, _ => rfl

theorem vector_three_eta (v : Vector Byte 3) : #v[v[0], v[1], v[2]] = v := by
  ext i hi
  match i, hi with
  | 0, _ => rfl
  | 1, _ => rfl
  | 2, _ => rfl

/-- Every field of a monitor frame is read from its place in the row (R68). -/
theorem decodeWire_encode_frameMonitor (f : MonitorFrame) :
    decodeWire .monitor (encode (.frameMonitor f)) = .ok (.frameMonitor f) := by
  simp only [encode, List.cons_append, List.nil_append, decodeWire, if_true, be16_hi8_lo8, vector_two_eta, vector_three_eta]

theorem decodeWire_encode_tlvEntry1 (t v : Byte) (h : Config.tables.width t = 1) :
    decodeWire .tlvEntry (encode (.tlvEntry1 t v)) = .ok (.tlvEntry1 t v) := by
  simp only [encode, decodeWire, if_pos h]

theorem decodeWire_encode_tlvEntry2 (t : Byte) (v : Half) (h : Config.tables.width t = 2) :
    decodeWire .tlvEntry (encode (.tlvEntry2 t v)) = .ok (.tlvEntry2 t v) := by
  simp only [encode, decodeWire, if_pos h, be16_hi8_lo8]

/-- Settles O1, by the form of the instruction's row: no operand, one byte string, the three others, a wire unit. -/
theorem decodeOfEncodeIsTheInstruction : Obligations.DecodeOfEncodeIsTheInstruction := by
  intro i h
  cases i with
  | nop | reset | crcInit | expire | tlvName => rfl
  | crc16 b | crcUpd b | tlvDec b | monDec b | rcpDec b | propDec b | setKey b | enc b | dec b | sign b | b64e b | b64d b | hexe b
  | hexd b => exact decodeOneBytes_encodeBytes _ b h
  | tlvEnc m => exact decode_tlvEnc_of_takePmap _ m (takePmap_encodePmap_end m (of_decide_eq_true h))
  | brew bev trig m => exact decode_brew_of_takePmap bev trig _ m (takePmap_encodePmap_end m (of_decide_eq_true h))
  | derive ar dr atm dtm =>
    simp only [Instr.wellFormed, Bool.and_eq_true] at h
    obtain ⟨⟨⟨har, hdr⟩, hatm⟩, hdtm⟩ := h
    exact decode_encode_derive ar dr atm dtm (fits_of_operandFits _ har) (fits_of_operandFits _ hdr) (fits_of_operandFits _ hatm)
      (fits_of_operandFits _ hdtm)
  | frameBrew => exact decodeWire_encode_frameBrew ..
  | frameRecipeProfile => exact decodeWire_encode_frameRecipeProfile ..
  | frameRecipeDefault => exact decodeWire_encode_frameRecipeDefault ..
  | frameProperty => exact decodeWire_encode_frameProperty ..
  | frameMonitor f => exact decodeWire_encode_frameMonitor f
  | tlvEntry1 t v => exact decodeWire_encode_tlvEntry1 t v (beq_iff_eq.1 h)
  | tlvEntry2 t v => exact decodeWire_encode_tlvEntry2 t v (beq_iff_eq.1 h)

/-! ## Where a descriptor ends -/

/-- A whole descriptor with bytes after it is invalid (R60). -/
theorem decode_append_trailing (d extra : Bytes) (i : Instr) (h : decode d = .ok i) (hextra : extra ≠ []) :
    decode (d ++ extra) = .error .trailing := by
  obtain ⟨op, rest, p, rfl, hp, heq, hok⟩ := exists_parser_of_decode d i h
  exact (heq _).trans (hp.append_trailing rest extra i hok hextra)

/-- Settles O2: bytes left over fail, so a proper beginning that decoded would make the whole fail; and a `pmap` operand sets its entries
in order. -/
theorem noDescriptorIsAPrefixOfAnother : Obligations.NoDescriptorIsAPrefixOfAnother := by
  refine ⟨fun d i hd => ⟨fun extra hextra j hj => ?longer, fun p q hpq hq j hj => ?shorter⟩, fun entries hlen => ?pmap⟩
  case longer =>
    rw [decode_append_trailing d extra i hd hextra] at hj
    cases hj
  case shorter =>
    rw [hpq, decode_append_trailing p q j hj hq] at hd
    cases hd
  case pmap =>
    have hread : takePmap (encodePmap entries) = some (ParamMap.setAll [] entries, []) := by
      simpa using takePmap_encodePmap entries [] hlen
    exact ⟨ParamMap.setAll [] entries, ParamMap.setAll_sorted [] entries List.Pairwise.nil, ParamMap.get?_setAll entries,
      decode_tlvEnc_of_takePmap _ _ hread, fun bev trig => decode_brew_of_takePmap bev trig _ _ hread⟩

/-! ## What does not decode, and what does not fit -/

/-- An invalid descriptor raises `BADCMD` and leaves the port one offer shorter (R64). -/
theorem step_of_invalid (s : State) (d : Bytes) (rest : List Offer) (hp : s.port = .descriptor d :: rest) (hd : ∀ i, decode d ≠ .ok i) :
    step s = .next (State.withResults { s with port := rest } 0x01 0x00 [] .none) := by
  cases h : decode d with
  | ok i => exact (hd i h).elim
  | error e =>
    have hoffer : decodeOffer (.descriptor d) = .error e := h
    simp only [step, fetch_cons s _ rest hp, hoffer]
    rfl

/-- An instruction with `bytes` operands checks them before anything else (R64, R274). -/
theorem exec_eq_withOperands (i : Instr) (s : State) (h : bytesOperands i ≠ []) :
    ∃ body, exec i s = withOperands (bytesOperands i) s body := by
  cases i with
  | nop | reset | crcInit | tlvEnc | tlvName | brew | expire | tlvEntry1 | tlvEntry2 => exact (h rfl).elim
  | crc16 | crcUpd | tlvDec | monDec | rcpDec | propDec | setKey | derive | enc | dec | sign | b64e | b64d | hexe | hexd | frameBrew
  | frameRecipeProfile | frameRecipeDefault | frameProperty | frameMonitor => exact ⟨_, rfl⟩

/-- An operand longer than `MAX_OPERAND` raises `OPERAND` from every state (R64). -/
theorem exec_of_long_operand (i : Instr) (s : State) (b : Bytes) (hb : b ∈ bytesOperands i) (hlong : Config.maxOperand < b.length) :
    exec i s = .next (raise .operand s) := by
  obtain ⟨body, he⟩ := exec_eq_withOperands i s (List.ne_nil_of_mem hb)
  rw [he, withOperands_of_long _ s body b hb hlong]

/-- Settles O3; a decoded operand fits because its length was read from 16 bits. -/
theorem invalidDescriptorsAndLongOperandsRaise : Obligations.InvalidDescriptorsAndLongOperandsRaise := by
  refine ⟨step_of_invalid, fun j h => (by cases h), fun i s b _ hb hlong => exec_of_long_operand i s b hb hlong, fun d i hd => ?fits⟩
  obtain ⟨op, rest, p, -, hp, -, hok⟩ := exists_parser_of_decode d i hd
  exact hp.fits rest i hok fun x hx => by cases hx

/-- Settles O4: a byte outside the opcode column does not decode. -/
theorem reservedOpcodesRaiseBadCmd : Obligations.ReservedOpcodesRaiseBadCmd := by
  refine ⟨reservedOpcode_iff, fun op tail s rest hop hp => step_of_invalid s _ rest hp fun i hi => ?_⟩
  rw [decode_unlisted op tail ((reservedOpcode_iff op).1 hop)] at hi
  cases hi

/-- Settles O6: the decoder and the encoder evaluated on the bytes of R65 and R164. -/
theorem writtenDescriptorsDecode : Obligations.WrittenDescriptorsDecode := by
  refine ⟨?nop, ?crc16, ?tlvName, ?brew, ?derive, ?expire, ?stop⟩ <;> decide

/-! ## Every command completes -/

/-- The statuses of the monitor tests (R132). -/
def parseStatuses : List Status := [.parseShort, .parseLength, .parseCrc, .parseContents]

/-- R61, R271: the command answers; it succeeds, or it raises one status and changes only the results, `RES` empty but for the raw length
of the monitor frame, if the command has one. -/
def SucceedsOrRaises (frame : Option Bytes) (s : State) (o : Outcome) : Prop :=
  ∃ t, o = .next t ∧ (t.status = 0x00 ∨ ∃ st : Status, st ≠ .ok ∧
    ((∃ f, frame = some f ∧ st ∈ parseStatuses ∧ t = s.withResults st.code 0x00 [] (.rawlen (BitVec.ofNat 16 f.length))) ∨
      (st ∉ parseStatuses ∧ t = s.withResults st.code 0x00 [] .none)))

section

variable {frame : Option Bytes} {s : State}

theorem succeedsOrRaises_complete (f : Byte) (o : Bytes) (r : Res) (s' : State) : SucceedsOrRaises frame s (.next (complete f o r s')) :=
  ⟨_, rfl, .inl rfl⟩

theorem succeedsOrRaises_raise (st : Status) (hok : st ≠ .ok) (hparse : st ∉ parseStatuses) :
    SucceedsOrRaises frame s (.next (raise st s)) :=
  ⟨_, rfl, .inr ⟨st, hok, .inr ⟨hparse, rfl⟩⟩⟩

/-- The operand check adds one status of its own (R64). -/
theorem succeedsOrRaises_withOperands (ops : List Bytes) (body : Outcome) (h : SucceedsOrRaises frame s body) :
    SucceedsOrRaises frame s (withOperands ops s body) := by
  rcases withOperands_cases ops s body with ⟨-, e⟩ | ⟨-, e⟩ <;> rw [e]
  · exact succeedsOrRaises_raise .operand (by decide) (by decide)
  · exact h

theorem succeedsOrRaises_deliverText (out : Bytes) : SucceedsOrRaises frame s (deliverText out s) := by
  rcases deliverText_cases out s with ⟨-, e⟩ | ⟨-, e⟩ <;> rw [e]
  · exact succeedsOrRaises_raise .operand (by decide) (by decide)
  · exact succeedsOrRaises_complete ..

theorem succeedsOrRaises_deliverDecoded (st : Status) (out : Option Bytes) (hok : st ≠ .ok) (hparse : st ∉ parseStatuses) :
    SucceedsOrRaises frame s (deliverDecoded st out s) := by
  rcases deliverDecoded_cases st out s with ⟨b, -, e⟩ | ⟨-, e⟩ <;> rw [e]
  · exact succeedsOrRaises_complete ..
  · exact succeedsOrRaises_raise st hok hparse

/-- The strict monitor decoder is the one command whose statuses leave something in `RES` (R133). -/
theorem succeedsOrRaises_monitor (f : Bytes) : SucceedsOrRaises (some f) s (.next (decodeMonitor f s)) := by
  rcases decodeMonitor_cases f s with ⟨st, hcheck, e⟩ | ⟨-, e⟩ <;> rw [e]
  · have hparse : st ∈ parseStatuses := by simpa [parseStatuses] using monitorCheck_status f st hcheck
    have hok : st ≠ .ok := by
      rintro rfl
      exact absurd hparse (by decide)
    exact ⟨_, rfl, .inr ⟨st, hok, .inl ⟨f, rfl, hparse, rfl⟩⟩⟩
  · exact succeedsOrRaises_complete ..

theorem succeedsOrRaises_recipe (c : TlvTables) (f : Bytes) : SucceedsOrRaises frame s (.next (decodeRecipe c f s)) := by
  obtain ⟨flags, out, e⟩ := decodeRecipe_complete c f s
  rw [e]
  exact succeedsOrRaises_complete ..

theorem succeedsOrRaises_property (f : Bytes) : SucceedsOrRaises frame s (.next (decodeProperty f s)) := by
  obtain ⟨flags, out, r, e⟩ := decodeProperty_complete f s
  rw [e]
  exact succeedsOrRaises_complete ..

theorem succeedsOrRaises_derive (ar dr atm dtm : Bytes) : SucceedsOrRaises frame s (exec (.derive ar dr atm dtm) s) := by
  rcases execDerive_cases ar dr atm dtm s with e | ⟨-, e⟩ | ⟨k, -, e⟩ <;> rw [exec, e]
  · exact succeedsOrRaises_raise .operand (by decide) (by decide)
  · exact succeedsOrRaises_raise .noLanKey (by decide) (by decide)
  · exact succeedsOrRaises_complete ..

theorem succeedsOrRaises_enc (p : Bytes) (hs : SecretsMatchSess s) : SucceedsOrRaises frame s (exec (.enc p) s) := by
  obtain ⟨t, ht⟩ := enc_completes p s hs
  rcases execEnc_cases p s with ⟨st, e, hst⟩ | ⟨reg, -, e, -⟩ | ⟨k, v, -, -, -, -, -, e⟩
  · rw [exec, e]
    rcases hst with rfl | rfl <;> exact succeedsOrRaises_raise _ (by decide) (by decide)
  · cases e.symm.trans ht
  · rw [exec, e]
    exact succeedsOrRaises_complete ..

theorem succeedsOrRaises_dec (c : Bytes) (hs : SecretsMatchSess s) : SucceedsOrRaises frame s (exec (.dec c) s) := by
  obtain ⟨t, ht⟩ := dec_completes c s hs
  rcases execDec_cases c s with ⟨st, e, hst⟩ | ⟨reg, -, e, -⟩ | ⟨k, v, -, -, -, -, -, -, e⟩
  · rw [exec, e]
    rcases hst with rfl | rfl | rfl <;> exact succeedsOrRaises_raise _ (by decide) (by decide)
  · cases e.symm.trans ht
  · rw [exec, e]
    exact succeedsOrRaises_complete ..

theorem succeedsOrRaises_sign (p : Bytes) (hs : SecretsMatchSess s) : SucceedsOrRaises frame s (exec (.sign p) s) := by
  obtain ⟨t, ht⟩ := sign_completes p s hs
  rcases execSign_cases p s with ⟨st, e, hst⟩ | ⟨-, e, -⟩ | ⟨k, -, -, -, e⟩
  · rw [exec, e]
    rcases hst with rfl | rfl <;> exact succeedsOrRaises_raise _ (by decide) (by decide)
  · cases e.symm.trans ht
  · rw [exec, e]
    exact succeedsOrRaises_complete ..

end

/-- Settles O14, instruction by instruction; R231 (a) is needed by the three commands that read secrets. -/
theorem commandsSucceedOrChangeOnlyResults : Obligations.CommandsSucceedOrChangeOnlyResults := by
  intro i s hs
  show SucceedsOrRaises (monitorOperand i) s (exec i s)
  have hsecrets : SecretsMatchSess s := hs.1
  cases i with
  | nop | crcInit | tlvEnc | tlvName | brew | expire | tlvEntry1 | tlvEntry2 | reset => exact ⟨_, rfl, .inl rfl⟩
  | crc16 | crcUpd | tlvDec | setKey | frameBrew => exact succeedsOrRaises_withOperands _ _ ⟨_, rfl, .inl rfl⟩
  | monDec | frameMonitor => exact succeedsOrRaises_withOperands _ _ (succeedsOrRaises_monitor _)
  | rcpDec | frameRecipeProfile | frameRecipeDefault => exact succeedsOrRaises_withOperands _ _ (succeedsOrRaises_recipe _ _)
  | propDec | frameProperty => exact succeedsOrRaises_withOperands _ _ (succeedsOrRaises_property _)
  | b64e | hexe => exact succeedsOrRaises_withOperands _ _ (succeedsOrRaises_deliverText _)
  | b64d | hexd =>
    exact succeedsOrRaises_withOperands _ _ (succeedsOrRaises_deliverDecoded _ _ (by decide) (by decide))
  | derive ar dr atm dtm => exact succeedsOrRaises_derive ar dr atm dtm
  | enc p => exact succeedsOrRaises_enc p hsecrets
  | dec c => exact succeedsOrRaises_dec c hsecrets
  | sign p => exact succeedsOrRaises_sign p hsecrets

end Sys2Proof.Machine
end

section
/-! PROOFS. The statements about the CRC-16 generator (spec/40_crc16). One shift of the register is linear over exclusive-or and takes only 0
to 0; from these two facts follow the two other forms of the CRC, the residue and the detection of a changed byte (R102). -/

namespace Sys2Proof.Machine

/-! ## One shift of the register -/

/-- The register shifted, with the polynomial if `fb` is set: R100 and the bit-serial form of R102 differ only in that bit. -/
def crcFeedback (fb : Bool) (reg : Half) : Half := if fb then (reg <<< 1) ^^^ 0x1021 else reg <<< 1

theorem crcShift_eq_crcFeedback (reg : Half) : crcShift reg = crcFeedback reg.msb reg := rfl

theorem crcBit_eq_crcFeedback (reg : Half) (bit : Bool) : crcBit reg bit = crcFeedback (reg.msb ^^ bit) reg := rfl

/-- The shift distributes; of the polynomials, one stays and two cancel. -/
theorem crcFeedback_xor (p q : Bool) (x y : Half) : crcFeedback (p ^^ q) (x ^^^ y) = crcFeedback p x ^^^ crcFeedback q y := by
  have hshift : (x ^^^ y) <<< 1 = x <<< 1 ^^^ y <<< 1 := BitVec.shiftLeft_xor_distrib x y 1
  have hcancel (a b c : Half) : (a ^^^ c) ^^^ (b ^^^ c) = a ^^^ b := by
    rw [BitVec.xor_comm b c, BitVec.xor_assoc, ← BitVec.xor_assoc c c b, BitVec.xor_self, BitVec.zero_xor]
  cases p <;> cases q <;> simp only [crcFeedback, hshift, Bool.xor_self, Bool.xor_true, Bool.xor_false, Bool.not_false, if_true]
  case false.false => rfl
  case false.true => exact BitVec.xor_assoc ..
  case true.false => rw [if_neg Bool.false_ne_true, BitVec.xor_assoc, BitVec.xor_comm (y <<< 1), ← BitVec.xor_assoc]
  case true.true => exact (hcancel ..).symm

theorem crcShift_xor (x y : Half) : crcShift (x ^^^ y) = crcShift x ^^^ crcShift y := by
  simp only [crcShift_eq_crcFeedback, BitVec.msb_xor, crcFeedback_xor]

/-- Exclusive-or with `x` before a shift enters the top bit of `x` now and leaves the rest of it for the next shift. -/
theorem crcShift_xor_eq_crcBit (reg x : Half) : crcShift (reg ^^^ x) = crcBit reg x.msb ^^^ x <<< 1 := by
  have h := crcFeedback_xor (reg.msb ^^ x.msb) false reg x
  rw [Bool.xor_false] at h
  rw [crcShift_eq_crcFeedback, BitVec.msb_xor, h, crcBit_eq_crcFeedback]
  rfl

theorem crcShift_of_msb_false (x : Half) (h : x.msb = false) : crcShift x = x <<< 1 := by simp [crcShift, h]

/-- The polynomial has the term 1: a shift that adds it leaves bit 0 set. -/
theorem crcShift_eq_zero (x : Half) (h : crcShift x = 0) : x = 0 := by
  cases hmsb : x.msb with
  | true =>
    have hbit : (crcShift x).getLsbD 0 = true := by simp [crcShift, hmsb]
    simp [h] at hbit
  | false =>
    rw [crcShift_of_msb_false x hmsb] at h
    rw [BitVec.msb_eq_false_iff_two_mul_lt] at hmsb
    bv_omega

theorem crcShift_injective : Function.Injective crcShift := fun x y h => by
  have hzero : crcShift (x ^^^ y) = 0 := by rw [crcShift_xor, h]; exact BitVec.xor_self
  exact BitVec.xor_eq_zero_iff.1 (crcShift_eq_zero _ hzero)

/-! ## Several shifts -/

theorem crcShifts_xor (n : Nat) (x y : Half) : crcShifts n (x ^^^ y) = crcShifts n x ^^^ crcShifts n y := by
  induction n generalizing x y with
  | zero => rfl
  | succ n ih => rw [crcShifts, crcShift_xor, ih]; rfl

theorem crcShifts_injective (n : Nat) : Function.Injective (crcShifts n) := by
  induction n with
  | zero => exact fun _ _ h => h
  | succ n ih => exact ih.comp crcShift_injective

/-- As long as no set bit is shifted out, the shifts are a plain shift. -/
theorem crcShifts_of_lt (n : Nat) (x : Half) (h : x.toNat * 2 ^ n < 2 ^ 16) : crcShifts n x = x <<< n := by
  induction n generalizing x with
  | zero => simp [crcShifts]
  | succ n ih =>
    have hpow : x.toNat * 2 ^ (n + 1) = 2 * x.toNat * 2 ^ n := by ring
    have hlt : 2 * x.toNat < 2 ^ 16 := by have := Nat.le_mul_of_pos_right (2 * x.toNat) (Nat.two_pow_pos n); omega
    have hshift : (x <<< 1).toNat = 2 * x.toNat := by rw [BitVec.toNat_shiftLeft]; omega
    rw [crcShifts, crcShift_of_msb_false x (BitVec.msb_eq_false_iff_two_mul_lt.2 hlt), ih _ (by rw [hshift]; omega), ← BitVec.shiftLeft_add,
      Nat.add_comm]

/-- Bits entered before the shifts come out as bits entered one by one, the top bit first; the rest of them is still to be shifted. -/
theorem crcShifts_xor_eq_foldl_crcBit (n : Nat) (reg x : Half) :
    crcShifts n (reg ^^^ x) = ((List.range n).map x.getMsbD).foldl crcBit reg ^^^ x <<< n := by
  induction n generalizing reg x with
  | zero => simp [crcShifts]
  | succ n ih =>
    have hbits : (List.range n).map (x <<< 1).getMsbD = (List.range n).map (x.getMsbD ∘ Nat.succ) :=
      List.map_congr_left fun k _ => by simp
    rw [crcShifts, crcShift_xor_eq_crcBit, ih, hbits, List.range_succ_eq_map, ← BitVec.shiftLeft_add, Nat.add_comm 1 n]
    simp [BitVec.msb]

/-! ## One byte -/

/-- The register holds its low byte and, in the high byte, its own high byte; a byte enters the latter. -/
theorem xor_highByte (reg : Half) (b : Byte) :
    reg ^^^ b.setWidth 16 <<< 8 = (lo8 reg).setWidth 16 ^^^ (hi8 reg ^^^ b).setWidth 16 <<< 8 := by
  ext i hi
  simp [lo8, hi8]
  grind

theorem lo8_setWidth_shiftLeft (reg : Half) : (lo8 reg).setWidth 16 <<< 8 = reg <<< 8 := by
  ext i hi
  simp [lo8]
  grind

theorem hi8_shiftLeft (reg : Half) : hi8 (reg <<< 8) = lo8 reg := by
  ext i hi
  simp [hi8, lo8]
  grind

theorem shiftLeft_eight_twice (reg : Half) : reg <<< 8 <<< 8 = 0#16 := by
  rw [← BitVec.shiftLeft_add]
  simp

theorem crcTable_eq (i : Byte) : crcTable i = crcShifts 8 (i.setWidth 16 <<< 8) := by
  rw [crcTable, crcStep]
  simp

/-- R102 law 4: the high byte of the register goes through the table, the low byte is shifted. -/
theorem crcStep_eq_crcTable (reg : Half) (b : Byte) : crcStep reg b = (reg <<< 8) ^^^ crcTable (hi8 reg ^^^ b) := by
  have hlow : crcShifts 8 ((lo8 reg).setWidth 16) = reg <<< 8 := by
    have hlt : ((lo8 reg).setWidth 16).toNat * 2 ^ 8 < 2 ^ 16 := by
      have := (lo8 reg).isLt
      rw [BitVec.toNat_setWidth]
      omega
    rw [crcShifts_of_lt 8 _ hlt, lo8_setWidth_shiftLeft]
  rw [crcStep, xor_highByte, crcShifts_xor, hlow, crcTable_eq]

/-- A register shifts plainly when its high byte is fed in. -/
theorem crcStep_hi8 (reg : Half) : crcStep reg (hi8 reg) = reg <<< 8 := by
  have hzero : crcTable 0#8 = 0#16 := by decide
  rw [crcStep_eq_crcTable, BitVec.xor_self, hzero, BitVec.xor_zero]

/-- R102 law 3 for one byte: its bits leave the low half empty, so nothing is left to shift after 8 of them. -/
theorem foldl_crcBit_msbFirst (reg : Half) (b : Byte) : (msbFirst b).foldl crcBit reg = crcStep reg b := by
  have hbits : (List.range 8).map (b.setWidth 16 <<< 8).getMsbD = msbFirst b := by
    simp [msbFirst, List.range_succ, BitVec.getMsbD]
  rw [crcStep, crcShifts_xor_eq_foldl_crcBit, hbits, shiftLeft_eight_twice, BitVec.xor_zero]

theorem crcStep_left_injective (b : Byte) : Function.Injective fun reg => crcStep reg b := fun _ _ h =>
  (BitVec.xor_left_inj _).1 (crcShifts_injective 8 h)

theorem crcStep_right_injective (reg : Half) : Function.Injective (crcStep reg) := fun x y h => by
  have hhigh : x.setWidth 16 <<< 8 = y.setWidth 16 <<< 8 := (BitVec.xor_right_inj reg).1 (crcShifts_injective 8 h)
  bv_omega

/-! ## Byte strings -/

@[simp] theorem crcUpdate_nil (reg : Half) : crcUpdate reg [] = reg := rfl

@[simp] theorem crcUpdate_cons (reg : Half) (x : Byte) (b : Bytes) : crcUpdate reg (x :: b) = crcUpdate (crcStep reg x) b := rfl

/-- R102 law 1. -/
theorem crcUpdate_append (reg : Half) (a b : Bytes) : crcUpdate reg (a ++ b) = crcUpdate (crcUpdate reg a) b := List.foldl_append

/-- The register's own two bytes cancel it, high byte first. -/
theorem crcUpdate_halfBytes (reg : Half) : crcUpdate reg (halfBytes reg) = 0 := by
  have hlast : crcStep (reg <<< 8) (lo8 reg) = reg <<< 8 <<< 8 := hi8_shiftLeft reg ▸ crcStep_hi8 (reg <<< 8)
  rw [halfBytes, crcUpdate_cons, crcUpdate_cons, crcUpdate_nil, crcStep_hi8, hlast]
  exact shiftLeft_eight_twice reg

theorem crcUpdate_injective (b : Bytes) : Function.Injective fun reg => crcUpdate reg b := by
  induction b with
  | nil => exact fun _ _ h => h
  | cons x b ih => exact ih.comp (crcStep_left_injective x)

/-- No change of one byte goes unnoticed, from any start value. -/
theorem eq_getElem_of_crcUpdate_set (reg : Half) (b : Bytes) (i : Nat) (hi : i < b.length) (x : Byte)
    (h : crcUpdate reg (b.set i x) = crcUpdate reg b) : x = b[i] := by
  induction b generalizing reg i with
  | nil => cases hi
  | cons y b ih =>
    cases i with
    | zero => exact crcStep_right_injective reg (crcUpdate_injective b h)
    | succ i => exact ih (crcStep reg y) i (Nat.lt_of_succ_lt_succ hi) h

/-- The mask of `flipBit` is not empty. -/
theorem ofNat_two_pow_ne_zero (k : Nat) (h : k < 8) : BitVec.ofNat 8 (2 ^ k) ≠ 0 := by
  interval_cases k <;> decide

/-! ## The laws of the CRC -/

/-- Settles O24: the two CRC bytes are the register's own. -/
theorem crcResidueIsZero : Obligations.CrcResidueIsZero := fun b => by
  rw [crcUpdate_append]
  exact crcUpdate_halfBytes _

/-- Settles O25: byte by byte the serial form is a `crcStep`; the table form is the linearity of the shifts. -/
theorem crcBitSerialAndTableFormsAgree : Obligations.CrcBitSerialAndTableFormsAgree := by
  refine ⟨fun r b => ?serial, crcStep_eq_crcTable, ?entries⟩
  case serial => simp only [crcBitSerial, List.foldl_flatMap, foldl_crcBit_msbFirst]; rfl
  case entries => decide

/-- Settles O26: a flipped bit changes its byte. -/
theorem singleBitFlipChangesTheCrc : Obligations.SingleBitFlipChangesTheCrc := by
  intro b i k r hi hk h
  have hbyte : b.getD i 0 ^^^ BitVec.ofNat 8 (2 ^ k) = b[i] := eq_getElem_of_crcUpdate_set r b i hi _ h
  rw [List.getD_eq_getElem b 0 hi] at hbyte
  exact ofNat_two_pow_ne_zero k hk (by simpa using hbyte)

/-! ## The commands -/

theorem exec_crcInit (s : State) : exec .crcInit s = .next (completeCrc 0x1D0F s) := rfl

theorem exec_crc16_of_fits (d : Bytes) (s : State) (h : Fits d) : exec (.crc16 d) s = .next (completeCrc (crcUpdate 0x1D0F d) s) :=
  withOperands_of_fits _ _ _ (by simpa using h)

theorem exec_crcUpd_of_fits (d : Bytes) (s : State) (h : Fits d) : exec (.crcUpd d) s = .next (completeCrc (crcUpdate s.crc d) s) :=
  withOperands_of_fits _ _ _ (by simpa using h)

/-- Settles O23: the three commands end with the register R102 law 1 gives for the joined string. -/
theorem streamedCrcEqualsOneShot : Obligations.StreamedCrcEqualsOneShot := by
  intro a b s h
  have hlen : a.length + b.length ≤ Config.maxOperand := List.length_append ▸ h
  have hjoin : crcUpdate 0x1D0F (a ++ b) = crcUpdate (crcUpdate 0x1D0F a) b := crcUpdate_append ..
  refine ⟨_, _, _, _, exec_crcInit s, exec_crcUpd_of_fits a _ (by omega), exec_crcUpd_of_fits b _ (by omega), exec_crc16_of_fits _ s h, ?_⟩
  simp only [completeCrc_crc, completeCrc_obuf, completeCrc_res, hjoin, and_self]

/-- Settles O22; the example of nine bytes is the two streamed ones joined. -/
theorem crcCommandsWriteRegisterAndResults : Obligations.CrcCommandsWriteRegisterAndResults := by
  have hfirst : crcUpdate 0x1D0F [0x31, 0x32, 0x33, 0x34] = 0xD999 := by
    simp [crcStep, crcShifts, crcShift, BitVec.msb_eq_decide]
  have hrest : crcUpdate 0xD999 [0x35, 0x36, 0x37, 0x38, 0x39] = 0xE5CC := by
    simp [crcStep, crcShifts, crcShift, BitVec.msb_eq_decide]
  have hjoined : crcUpdate 0x1D0F ([0x31, 0x32, 0x33, 0x34] ++ [0x35, 0x36, 0x37, 0x38, 0x39]) = 0xE5CC := by
    rw [crcUpdate_append, hfirst, hrest]
  exact ⟨exec_crc16_of_fits, exec_crcInit, exec_crcUpd_of_fits, fun d => ⟨rfl, rfl, rfl⟩, crcUpdate_nil, hjoined, hfirst, hrest⟩

end Sys2Proof.Machine
end

section
/-! PROOFS. A parameter mapping as a partial map (spec/10_state R22): which entries it holds is which values its tags read, and a canonical
mapping is rebuilt from its entries set in any order. -/

namespace Sys2Proof

/-- A canonical mapping holds each tag at most once (R22). -/
theorem ParamMap.nodup_tags_of_sorted (m : ParamMap) (h : m.Sorted) : (m.map Prod.fst).Nodup :=
  List.pairwise_map.2 (h.imp BitVec.ne_of_lt)

/-- Of entries with distinct tags each one is read back, whatever their order. -/
theorem ParamMap.get?_setAll_eq_some_iff (entries : List (Byte × Half)) (hn : (entries.map Prod.fst).Nodup) (t : Byte) (v : Half) :
    (ParamMap.setAll [] entries).get? t = some v ↔ (t, v) ∈ entries := by
  induction entries using List.reverseRecOn with
  | nil => simp [ParamMap.setAll]
  | append_singleton entries e ih =>
    obtain ⟨u, w⟩ := e
    rw [List.map_append, List.map_singleton, List.nodup_append] at hn
    obtain ⟨hnodup, -, hdisjoint⟩ := hn
    rw [ParamMap.setAll_concat, List.mem_append, List.mem_singleton]
    by_cases htu : t = u
    · subst htu
      have hnew : (t, v) ∉ entries := fun hmem => hdisjoint t (List.mem_map_of_mem hmem) t List.mem_cons_self rfl
      simp [hnew, eq_comm]
    · rw [ParamMap.get?_set_other _ _ _ _ htu, ih hnodup]
      simp [htu]

/-- The values of a canonical mapping are those of its entries. -/
theorem ParamMap.get?_eq_some_iff (m : ParamMap) (h : m.Sorted) (t : Byte) (v : Half) : m.get? t = some v ↔ (t, v) ∈ m := by
  have hiff := ParamMap.get?_setAll_eq_some_iff m (ParamMap.nodup_tags_of_sorted m h) t v
  rwa [ParamMap.setAll_of_sorted m h] at hiff

/-- A canonical mapping is rebuilt from its entries in any order (R22, R118). -/
theorem ParamMap.setAll_of_perm (entries : List (Byte × Half)) (m : ParamMap) (hm : m.Sorted) (hp : entries.Perm m) :
    ParamMap.setAll [] entries = m := by
  have hsorted : (ParamMap.setAll [] entries).Sorted := ParamMap.setAll_sorted [] entries List.Pairwise.nil
  have hnodup : (entries.map Prod.fst).Nodup := (hp.map Prod.fst).nodup_iff.2 (ParamMap.nodup_tags_of_sorted m hm)
  have hmem (e : Byte × Half) : e ∈ ParamMap.setAll [] entries ↔ e ∈ m := by
    rw [← ParamMap.get?_eq_some_iff _ hsorted, ParamMap.get?_setAll_eq_some_iff entries hnodup, hp.mem_iff]
  have hperm := (List.perm_ext_iff_of_nodup (ParamMap.nodup_tags_of_sorted _ hsorted).of_map
    (ParamMap.nodup_tags_of_sorted m hm).of_map).2 hmem
  exact hperm.eq_of_pairwise (fun a b _ _ hab hba => (BitVec.lt_asymm hab hba).elim) hsorted hm

/-- Changing the values of a mapping tag by tag changes what each tag reads. -/
theorem ParamMap.get?_map_values (f : Byte → Half → Half) (m : ParamMap) (t : Byte) :
    ParamMap.get? (m.map fun e => (e.1, f e.1 e.2)) t = (m.get? t).map (f t) := by
  induction m with
  | nil => rfl
  | cons e m ih => by_cases h : t = e.1 <;> simp [ParamMap.get?, h, ih]

end Sys2Proof
end

section
/-! PROOFS. The statements about the TLV parameter codec (spec/41_tlv R110 to R121). Encoding writes the entries of a mapping in the canonical
order, decoding sets whole entries one by one and masks their values; since a canonical mapping does not depend on the order in which its
entries are set, decoding inverts encoding up to the masks. -/

namespace Sys2Proof.Machine

/-! ## Entries -/

theorem width_eq_two_iff (c : TlvTables) (t : Byte) : c.width t = 2 ↔ t ∈ c.twoByteTags := by
  simp [TlvTables.width]

/-- One byte as a value is the value masked to 8 bits (R113, R118). -/
theorem setWidth_lo8 (v : Half) : (lo8 v).setWidth 16 = v &&& 0x00FF#16 := by
  apply BitVec.eq_of_toNat_eq
  have hbyte : v.toNat % 256 < 65536 := by omega
  simpa [lo8, Nat.mod_eq_of_lt hbyte] using (Nat.and_two_pow_sub_one_eq_mod v.toNat 8).symm

/-- An entry with the value its bytes can carry (R113). -/
def maskEntry (c : TlvTables) (e : Byte × Half) : Byte × Half := (e.1, maskedValue c e.1 e.2)

theorem maskedValue_of_mem (c : TlvTables) (t : Byte) (v : Half) (h : t ∈ c.twoByteTags) : maskedValue c t v = v :=
  if_pos ((width_eq_two_iff c t).2 h)

theorem maskedValue_of_not_mem (c : TlvTables) (t : Byte) (v : Half) (h : t ∉ c.twoByteTags) :
    maskedValue c t v = (lo8 v).setWidth 16 :=
  (if_neg (mt (width_eq_two_iff c t).1 h)).trans (setWidth_lo8 v).symm

theorem tlvEntry_eq_entryBytes (c : TlvTables) (t : Byte) (v : Half) : tlvEntry c t v = entryBytes c (t, v) := by
  simp only [tlvEntry, entryBytes, width_eq_two_iff]

theorem length_entryBytes (c : TlvTables) (e : Byte × Half) : (entryBytes c e).length = if e.1 ∈ c.twoByteTags then 3 else 2 := by
  unfold entryBytes
  split <;> rfl

/-- A value and its masked value have the same bytes (R113). -/
theorem tlvEntry_maskedValue (c : TlvTables) (t : Byte) (v : Half) : tlvEntry c t (maskedValue c t v) = tlvEntry c t v := by
  by_cases h : t ∈ c.twoByteTags
  · rw [maskedValue_of_mem c t v h]
  · have hlo : lo8 ((lo8 v).setWidth 16) = lo8 v := BitVec.setWidth_setWidth_of_le _ (by decide)
    simp [maskedValue_of_not_mem c t v h, tlvEntry_eq_entryBytes, entryBytes, h, hlo]

/-- Masking leaves a mapping that fits as it is (R110). -/
theorem map_maskEntry_of_fits (c : TlvTables) (m : ParamMap) (h : fitsTags c m = true) : m.map (maskEntry c) = m := by
  refine (List.map_congr_left fun e he => ?_).trans m.map_id
  have hfit : c.width e.1 = 2 ∨ e.2 < 256 := by simpa using List.all_eq_true.1 h e he
  have hvalue : maskedValue c e.1 e.2 = e.2 := by
    unfold maskedValue
    split
    · rfl
    · next hone =>
      have hlow : e.2.toNat < 2 ^ 8 := hfit.resolve_left hone
      exact BitVec.eq_of_toNat_eq ((Nat.and_two_pow_sub_one_eq_mod e.2.toNat 8).trans (Nat.mod_eq_of_lt hlow))
  rw [maskEntry, hvalue, id]

/-! ## Decoding -/

/-- One whole entry is read and set, its value masked to the tag's width (R118). -/
theorem tlvDecodeFrom_entryBytes (c : TlvTables) (e : Byte × Half) (b : Bytes) (m : ParamMap) :
    tlvDecodeFrom c (entryBytes c e ++ b) m = tlvDecodeFrom c b (m.set e.1 (maskedValue c e.1 e.2)) := by
  by_cases h : e.1 ∈ c.twoByteTags
  · simp [entryBytes, tlvDecodeFrom, width_eq_two_iff, h, maskedValue_of_mem c e.1 e.2 h]
  · rw [entryBytes, if_neg h, List.cons_append, List.cons_append, List.nil_append, tlvDecodeFrom.eq_def]
    simp [width_eq_two_iff, h, maskedValue_of_not_mem c e.1 e.2 h]

/-- A tail too short for an entry is dropped (R118). -/
theorem tlvDecodeFrom_tooShort (c : TlvTables) (tail : Bytes) (m : ParamMap) (h : TooShortForAnEntry c tail) :
    tlvDecodeFrom c tail m = m := by
  rcases h with rfl | ⟨t, rfl⟩ | ⟨t, v, rfl, ht⟩
  · rfl
  · rfl
  · simp [tlvDecodeFrom, width_eq_two_iff, ht]

/-- Whole entries are set in order (R118). -/
theorem tlvDecodeFrom_entries (c : TlvTables) (entries : List (Byte × Half)) (tail : Bytes) (m : ParamMap)
    (h : TooShortForAnEntry c tail) :
    tlvDecodeFrom c (entries.flatMap (entryBytes c) ++ tail) m = m.setAll (entries.map (maskEntry c)) := by
  induction entries generalizing m with
  | nil => exact tlvDecodeFrom_tooShort c tail m h
  | cons e entries ih =>
    rw [List.flatMap_cons, List.append_assoc, tlvDecodeFrom_entryBytes, ih]
    rfl

theorem tlvDecode_entries (c : TlvTables) (entries : List (Byte × Half)) :
    tlvDecode c (entries.flatMap (entryBytes c)) = ParamMap.setAll [] (entries.map (maskEntry c)) := by
  rw [tlvDecode, ← tlvDecodeFrom_entries c entries [] [] (.inl rfl), List.append_nil]

/-- Every byte string is whole entries and a tail too short for one more (R118). -/
theorem exists_entries_and_tail (c : TlvTables) (b : Bytes) :
    ∃ (entries : List (Byte × Half)) (tail : Bytes), TooShortForAnEntry c tail ∧ b = entries.flatMap (entryBytes c) ++ tail := by
  match b with
  | [] => exact ⟨[], [], .inl rfl, rfl⟩
  | [t] => exact ⟨[], [t], .inr (.inl ⟨t, rfl⟩), rfl⟩
  | t :: v :: rest =>
    by_cases h : t ∈ c.twoByteTags
    · match rest with
      | [] => exact ⟨[], [t, v], .inr (.inr ⟨t, v, rfl, h⟩), rfl⟩
      | lo :: rest =>
        obtain ⟨entries, tail, htail, rfl⟩ := exists_entries_and_tail c rest
        exact ⟨(t, be16 v lo) :: entries, tail, htail, by simp [entryBytes, h]⟩
    · obtain ⟨entries, tail, htail, rfl⟩ := exists_entries_and_tail c rest
      exact ⟨(t, be16 0 v) :: entries, tail, htail, by simp [entryBytes, h]⟩
termination_by b.length

/-- Settles O28: a string splits into entries and a tail, and decoding takes the entries one by one. -/
theorem tlvDecodeReadsEntriesAndDropsATruncatedTail : Obligations.TlvDecodeReadsEntriesAndDropsATruncatedTail := by
  refine fun c => ⟨exists_entries_and_tail c, fun entries tail h => ?_⟩
  rw [tlvDecode, tlvDecodeFrom_entries c entries tail [] h, ParamMap.setAll, List.foldl_map]
  rfl

/-! ## The canonical order -/

theorem hasTag_iff (m : ParamMap) (t : Byte) : hasTag m t = true ↔ t ∈ m.map Prod.fst := by
  induction m with
  | nil => simp [hasTag]
  | cons e m ih =>
    by_cases h : t = e.1
    · simp [hasTag, ParamMap.get?, h]
    · simpa [hasTag, ParamMap.get?, h] using ih

/-- The order holds the tags of the mapping and no others (R119). -/
theorem mem_tlvOrder_iff (c : TlvTables) (m : ParamMap) (t : Byte) : t ∈ tlvOrder c m ↔ t ∈ m.map Prod.fst := by
  rw [← hasTag_iff]
  by_cases h : t ∈ priorityTags c <;> simp [tlvOrder, h]

theorem allTags_ascending : allTags.Pairwise (fun a b => a < b) := by
  refine List.pairwise_map.2 (List.pairwise_lt_range.imp_of_mem fun ha hb hab => ?_)
  simpa [BitVec.lt_def, Nat.mod_eq_of_lt (List.mem_range.1 ha), Nat.mod_eq_of_lt (List.mem_range.1 hb)] using hab

/-- The canonical order reorders a mapping's tags (R119). -/
theorem tlvOrder_perm (c : TlvTables) (m : ParamMap) (h : m.Sorted) : (tlvOrder c m).Perm (m.map Prod.fst) :=
  (List.perm_ext_iff_of_nodup (nodup_tlvOrder c m) (ParamMap.nodup_tags_of_sorted m h)).2 (mem_tlvOrder_iff c m)

/-- Settles O31: the two parts of the order are the priority tags and the others. -/
theorem tlvOrderIsCanonical : Obligations.TlvOrderIsCanonical := by
  intro c m hdistinct _
  have hprio : priorityTags c = c.priority := firstOccurrences_of_nodup c.priority hdistinct
  refine ⟨_, _, rfl, nodup_tlvOrder c m, mem_tlvOrder_iff c m, ?first, ?rest, allTags_ascending.filter _⟩
  case first =>
    rw [hprio]
    exact List.filter_sublist
  case rest =>
    intro t ht
    rw [hprio] at ht
    simpa using (Bool.and_eq_true_iff.1 (List.mem_filter.1 ht).2).2

/-! ## Encoding -/

/-- The entries of a mapping in the order they are encoded in (R113, R119). -/
def orderedEntries (c : TlvTables) (m : ParamMap) : List (Byte × Half) := (tlvOrder c m).map fun t => (t, (m.get? t).getD 0)

/-- An encoding is the bytes of the entries in canonical order (R113). -/
theorem tlvEncode_eq_flatMap (c : TlvTables) (m : ParamMap) : tlvEncode c m = (orderedEntries c m).flatMap (entryBytes c) := by
  simp only [tlvEncode, orderedEntries, List.flatMap_map, tlvEntry_eq_entryBytes]

/-- They are the mapping's own entries (R119). -/
theorem orderedEntries_perm (c : TlvTables) (m : ParamMap) (h : m.Sorted) : (orderedEntries c m).Perm m := by
  have hself : (m.map Prod.fst).map (fun t => (t, (m.get? t).getD 0)) = m := by
    rw [List.map_map]
    refine (List.map_congr_left fun e he => ?_).trans m.map_id
    have hget : m.get? e.1 = some e.2 := (ParamMap.get?_eq_some_iff m h e.1 e.2).2 he
    simp [hget]
  simpa only [orderedEntries, hself] using (tlvOrder_perm c m h).map fun t => (t, (m.get? t).getD 0)

theorem tlvEncode_nil (c : TlvTables) : tlvEncode c [] = [] := by simp [tlvEncode, tlvOrder, hasTag]

/-- Settles O32: an encoding has the entries of the mapping, each with its tag's length. -/
theorem tlvEncodingLength : Obligations.TlvEncodingLength := by
  refine fun c m h => ⟨?_, length_tlvEncode_le c m, tlvEncode_nil c⟩
  rw [tlvEncode_eq_flatMap, List.length_flatMap]
  simpa only [length_entryBytes] using ((orderedEntries_perm c m h).map fun e => (entryBytes c e).length).sum_eq

/-- Encoding does not see the bits that masking clears (R113). -/
theorem tlvEncode_map_maskEntry (c : TlvTables) (m : ParamMap) : tlvEncode c (m.map (maskEntry c)) = tlvEncode c m := by
  have hget (t : Byte) : ParamMap.get? (m.map (maskEntry c)) t = (m.get? t).map (maskedValue c t) :=
    ParamMap.get?_map_values (maskedValue c) m t
  have htags : hasTag (m.map (maskEntry c)) = hasTag m := funext fun t => by simp only [hasTag, hget, Option.isSome_map]
  have horder : tlvOrder c (m.map (maskEntry c)) = tlvOrder c m := by simp only [tlvOrder, htags]
  have hentry (t : Byte) : tlvEntry c t (((m.get? t).map (maskedValue c t)).getD 0) = tlvEntry c t ((m.get? t).getD 0) := by
    cases m.get? t with
    | none => rfl
    | some v => exact tlvEntry_maskedValue c t v
  simp only [tlvEncode, horder, hget, hentry]

/-! ## The round trip -/

/-- Decoding an encoding gives every entry back, its value masked (R120). -/
theorem tlvDecode_tlvEncode (c : TlvTables) (m : ParamMap) (h : m.Sorted) : tlvDecode c (tlvEncode c m) = m.map (maskEntry c) := by
  have hmasked : ParamMap.Sorted (m.map (maskEntry c)) := List.pairwise_map.2 h
  rw [tlvEncode_eq_flatMap, tlvDecode_entries]
  exact ParamMap.setAll_of_perm _ _ hmasked ((orderedEntries_perm c m h).map _)

/-- Settles O29: masking changes nothing in a mapping that fits. -/
theorem tlvRoundTrip : Obligations.TlvRoundTrip :=
  ⟨fun c m h hfits => (tlvDecode_tlvEncode c m h).trans (map_maskEntry_of_fits c m hfits), tlvDecode_tlvEncode⟩

/-- The encoding of a mapping is the encoding of what it decodes to (R121). -/
theorem tlvEncode_tlvDecode_tlvEncode (c : TlvTables) (m : ParamMap) (h : m.Sorted) :
    tlvEncode c (tlvDecode c (tlvEncode c m)) = tlvEncode c m := by
  rw [tlvDecode_tlvEncode c m h, tlvEncode_map_maskEntry]

/-- Settles O30; under CFG-A a lone tag is a truncated entry and decodes to the empty mapping. -/
theorem tlvConverseHoldsForEncodingsOnly : Obligations.TlvConverseHoldsForEncodingsOnly := by
  refine ⟨tlvEncode_tlvDecode_tlvEncode, cfgA, [0x01], ?_⟩
  have htruncated : tlvDecode cfgA [0x01] = [] := rfl
  rw [htruncated, tlvEncode_nil]
  exact (List.cons_ne_nil _ _).symm

end Sys2Proof.Machine
end

section
/-! PROOFS. The statements about the names of tags (spec/41_tlv R116, R117) and the TLV commands. A name of the fallback form gives its tag
back and no table entry has that form, so that no two tags share a name. -/

namespace Sys2Proof.Machine

/-! ## Hex digits -/

/-- The low nibble of a byte (R75). -/
theorem toNat_low_nibble (v : Byte) : (v &&& (0x0F : Byte)).toNat = v.toNat % 16 := by
  rw [BitVec.toNat_and]
  exact Nat.and_two_pow_sub_one_eq_mod v.toNat 4

/-- The high nibble of a byte (R75). -/
theorem toNat_high_nibble (v : Byte) : (v >>> 4).toNat = v.toNat / 16 := by
  rw [BitVec.toNat_ushiftRight, Nat.shiftRight_eq_div_pow]

theorem high_nibble_and (v : Byte) : (v >>> 4) &&& (0x0F : Byte) = v >>> 4 := by
  apply BitVec.eq_of_toNat_eq
  rw [toNat_low_nibble, toNat_high_nibble]
  omega

/-- A digit determines the nibble it stands for (R75). -/
theorem nibble_eq_of_hexDigit_eq (v w : Byte) (h : hexDigit v = hexDigit w) : v.toNat % 16 = w.toNat % 16 := by
  have hv := toNat_low_nibble v
  have hw := toNat_low_nibble w
  unfold hexDigit at h
  generalize v &&& 0x0F = x at *
  generalize w &&& 0x0F = y at *
  split_ifs at h <;> bv_omega

theorem isHexDigit_hexDigit (v : Byte) : isHexDigit (hexDigit v) = true := by
  have hv := toNat_low_nibble v
  unfold hexDigit
  generalize v &&& 0x0F = x at *
  simp only [isHexDigit, Bool.or_eq_true, Bool.and_eq_true, decide_eq_true_eq]
  split_ifs <;> bv_omega

/-- Two digits determine the byte (R75). -/
theorem hexByte_injective : Function.Injective hexByte := by
  intro t u h
  simp only [hexByte, List.cons.injEq, and_true] at h
  obtain ⟨hhigh, hlow⟩ := h
  have hhigh := nibble_eq_of_hexDigit_eq _ _ hhigh
  have hlow := nibble_eq_of_hexDigit_eq _ _ hlow
  rw [toNat_high_nibble, toNat_high_nibble] at hhigh
  apply BitVec.eq_of_toNat_eq
  omega

/-! ## Names -/

theorem fallbackName_injective : Function.Injective fallbackName := fun _ _ h => hexByte_injective (List.append_cancel_left h)

theorem isFallbackForm_fallbackName (t : Byte) : isFallbackForm (fallbackName t) = true := by
  simp [fallbackName, hexByte, isFallbackForm, isHexDigit_hexDigit]

/-- What an entry that counts is: the table's entry, admissible, and no lower tag's (R116, D35). -/
theorem namedTag_eq_some_iff (c : TlvTables) (t : Byte) (n : Name) :
    namedTag c t = some n ↔ tableEntry c t = some n ∧ nameAdmissible n = true ∧ ∀ u, u < t → tableEntry c u ≠ some n := by
  unfold namedTag
  cases tableEntry c t with
  | none => simp
  | some e =>
    by_cases hen : e = n
    · subst hen
      simp
    · simp [hen]

theorem namedTag_none (c : TlvTables) (t : Byte) (h : tableEntry c t = none) : namedTag c t = none := by simp [namedTag, h]

/-- Two tags with one name in the table: the lower one's entry counts, the other's does not (R116). -/
theorem eq_of_namedTag_eq (c : TlvTables) (t u : Byte) (n : Name) (ht : namedTag c t = some n) (hu : namedTag c u = some n) : t = u := by
  obtain ⟨htn, -, htlow⟩ := (namedTag_eq_some_iff c t n).1 ht
  obtain ⟨hun, -, hulow⟩ := (namedTag_eq_some_iff c u n).1 hu
  have hle : t ≤ u := BitVec.not_lt.1 fun h => htlow u h hun
  have hge : u ≤ t := BitVec.not_lt.1 fun h => hulow t h htn
  exact BitVec.le_antisymm hle hge

/-- A name of the table is no fallback name (R116, D35). -/
theorem namedTag_ne_fallbackName (c : TlvTables) (t u : Byte) : namedTag c t ≠ some (fallbackName u) := by
  intro h
  obtain ⟨-, hadm, -⟩ := (namedTag_eq_some_iff c t _).1 h
  simp [nameAdmissible, isFallbackForm_fallbackName] at hadm

/-- No two tags have the same name, for any table (R116). -/
theorem tagName_injective (c : TlvTables) : Function.Injective (tagName c) := by
  intro t u h
  unfold tagName at h
  cases ht : namedTag c t with
  | none =>
    cases hu : namedTag c u with
    | none => exact fallbackName_injective (by simpa [ht, hu] using h)
    | some n => exact (namedTag_ne_fallbackName c u t (by simpa [ht, hu, eq_comm] using h)).elim
  | some n =>
    cases hu : namedTag c u with
    | none => exact (namedTag_ne_fallbackName c t u (by simpa [ht, hu] using h)).elim
    | some k => exact eq_of_namedTag_eq c t u n ht (by simpa [ht, hu, eq_comm] using h)

/-- The form D35 forbids, written out, is the one the model tests for. -/
theorem isFallbackForm_eq_false (n : Name) (h : ∀ x y, isHexDigit x = true → isHexDigit y = true → n ≠ [0x30, 0x78, x, y]) :
    isFallbackForm n = false := by
  unfold isFallbackForm
  split
  · next z x a b =>
    by_contra hform
    simp only [Bool.not_eq_false, Bool.and_eq_true, beq_iff_eq] at hform
    obtain ⟨⟨⟨rfl, rfl⟩, ha⟩, hb⟩ := hform
    exact h a b ha hb rfl
  · rfl

/-- In a table that D35 allows every entry counts. -/
theorem namedTag_of_namesMeetD35 (c : TlvTables) (t : Byte) (h : NamesMeetD35 c) : namedTag c t = tableEntry c t := by
  obtain ⟨hform, hdistinct⟩ := h
  cases ht : tableEntry c t with
  | none => exact namedTag_none c t ht
  | some n =>
    obtain ⟨hascii, hlen, hfallback⟩ := hform t n ht
    refine (namedTag_eq_some_iff c t n).2 ⟨ht, ?_, fun u hu hun => BitVec.ne_of_lt hu (hdistinct u t n hun ht)⟩
    simpa [nameAdmissible, isFallbackForm_eq_false n hfallback, hlen] using hascii

/-- Settles O33: names are injective by construction, and D35 is what makes every table entry count. -/
theorem tagNamesAreDistinct : Obligations.TagNamesAreDistinct := by
  refine ⟨fun c t u h => tagName_injective c h, fun c t n h ht => ?entry, fun c t ht => ?fallback⟩
  case entry =>
    have hnamed : namedTag c t = some n := (namedTag_of_namesMeetD35 c t h).trans ht
    exact ⟨hnamed, by simp [tagName, hnamed]⟩
  case fallback =>
    simp only [tagName, namedTag_none c t ht, Option.getD_none, fallbackName, hexByte, hexDigit, high_nibble_and]
    rfl

/-! ## The TLV commands -/

/-- The flags of `TLV_NAME` are `FOUND` alone (R117). -/
theorem nameFlags_eq (found : Bool) : nameFlags found = if found then 0x20 else 0x00 := by cases found <;> rfl

/-- `TLV_NAME` with its flags and its name written out (R117). -/
theorem completeTlvName_eq (c : TlvTables) (t : Byte) (s : State) : completeTlvName c t s = s.withResults 0x00
    (if (namedTag c t).isSome then 0x20 else 0x00) ((namedTag c t).getD (fallbackName t)) .none := by
  rw [← nameFlags_eq]
  rfl

/-- The spec's encoding example: the entries go out in the order of the priority list (R113, R119). -/
theorem tlvEncode_cfgA_example : tlvEncode cfgA [(0x01, 36), (0x02, 5), (0x1B, 4)] = [0x01, 0x24, 0x1B, 0x04, 0x02, 0x05] := by
  decide

/-- Settles O27: the commands by their meanings, the examples by evaluation, R117 from D35. -/
theorem tlvCommandsDeliverTheCodec : Obligations.TlvCommandsDeliverTheCodec := by
  refine ⟨exec_tlvDec_of_fits, fun m s => rfl, fun t s => congrArg Host.Outcome.next (completeTlvName_eq Config.tables t s), by decide,
    tlvEncode_cfgA_example, by decide, fun t s => rfl, fun c t s h => ?_⟩
  rw [completeTlvName_eq, namedTag_of_namesMeetD35 c t h]

end Sys2Proof.Machine
end

section
/-! PROOFS. The statement about the wire rows of the opcode table (spec/30_encoding R67 to R71): each runs the decoder or the builder its rule
names on the bytes of its own frame (spec/41_tlv R118, spec/42_frame_decode R136, R142, R147, spec/43_frame_build R161). -/

namespace Sys2Proof.Machine

/-! ## What the decoders deliver on a frame of their family -/

/-- A profile-scoped recipe frame leaves its record (R142). -/
theorem decodeRecipe_profileFrame (c : TlvTables) (len prof bev : Byte) (tlv : Bytes) (crc : Half) (s : State) : ∃ flags,
    decodeRecipe c (encode (.frameRecipeProfile len prof bev tlv crc)) s = s.withResults 0x00 flags []
      (.recipe ⟨.profile, some 0xA6F0, some len, some prof, some bev, some (tlvDecode c tlv)⟩) := by
  unfold decodeRecipe encode
  rw [recipeFormat_profileFrame, recipeRecord_profileFrame]
  exact ⟨_, rfl⟩

/-- A default recipe frame leaves its record (R142). -/
theorem decodeRecipe_defaultFrame (c : TlvTables) (len bev : Byte) (tlv : Bytes) (crc : Half) (s : State) : ∃ flags,
    decodeRecipe c (encode (.frameRecipeDefault len bev tlv crc)) s = s.withResults 0x00 flags []
      (.recipe ⟨.default, some 0xB0F0, some len, none, some bev, some (tlvDecode c tlv)⟩) := by
  unfold decodeRecipe encode
  rw [recipeFormat_defaultFrame, recipeRecord_defaultFrame]
  exact ⟨_, rfl⟩

/-- A property frame leaves its record and its payload (R147, R148). -/
theorem decodeProperty_frame (len : Byte) (op : Half) (payload : Bytes) (crc : Half) (s : State) : ∃ flags,
    decodeProperty (encode (.frameProperty len op payload crc)) s = s.withResults 0x00 flags payload
      (.property ⟨.frame, some op, some len⟩) := by
  have hbody : slice (encode (.frameProperty len op payload crc)) 4 ((encode (.frameProperty len op payload crc)).length - 2) = payload :=
    slice_between [0xD0, len, hi8 op, lo8 op] payload [hi8 crc, lo8 crc]
  have hword : commandWord (encode (.frameProperty len op payload crc)) = op := be16_hi8_lo8 op
  unfold decodeProperty
  rw [if_pos ⟨by simp [encode], rfl⟩, hbody, hword]
  exact ⟨_, rfl⟩

/-- A monitor frame that carries its checksum leaves a record (R136). -/
theorem decodeMonitor_frame (f : MonitorFrame) (s : State) (hcrc : [hi8 f.crc, lo8 f.crc] = crc16 ((encode (.frameMonitor f)).take 17)) :
    ∃ flags extra r, decodeMonitor (encode (.frameMonitor f)) s = s.withResults 0x00 flags extra (.monitor r) := by
  have hcheck : monitorCheck (encode (.frameMonitor f)) = none := monitorCheck_eq_none _ (by simp [encode]) rfl hcrc.symm
  unfold decodeMonitor
  rw [hcheck]
  exact ⟨_, _, _, rfl⟩

/-! ## The builder's frame -/

/-- The length byte of a brew frame by the 16-bit sum (R161). -/
theorem lo8_ofNat (n : Nat) : lo8 (BitVec.ofNat 16 n) = BitVec.ofNat 8 n := by
  apply BitVec.eq_of_toNat_eq
  simp [lo8]

/-- A built frame, as the `frame.brew` row writes it: its computed length byte and checksum in their fields (R161). -/
theorem brewFrame_eq_encode (bev trig : Byte) (tlv : Bytes) :
    brewFrame bev trig tlv = encode (.frameBrew (lo8 (BitVec.ofNat 16 (tlv.length + 7))) bev trig tlv
      (crcReg ([0x0D, lo8 (BitVec.ofNat 16 (tlv.length + 7)), 0x83, 0xF0, bev, trig] ++ tlv))) := by
  rw [lo8_ofNat]
  rfl

theorem exec_frameBrew_of_fits (len bev trig : Byte) (tlv : Bytes) (crc : Half) (s : State) (h : tlv.length + 8 ≤ Config.maxOperand) :
    exec (.frameBrew len bev trig tlv crc) s = .next (buildBrew Config.tables bev trig (tlvDecode Config.tables tlv) s) :=
  withOperands_of_fits _ _ _ fun _ hb =>
    List.mem_singleton.1 hb ▸ fits_frame [0x0D, len, 0x83, 0xF0, bev, trig] tlv [hi8 crc, lo8 crc] h

/-! ## TLV entries -/

/-- The two bytes of a one-byte tag's entry; for a two-byte tag they are a truncated entry (R118). -/
theorem tlvDecode_entry1 (c : TlvTables) (t v : Byte) : tlvDecode c [t, v] = if t ∈ c.twoByteTags then [] else [(t, v.setWidth 16)] := by
  by_cases h : t ∈ c.twoByteTags <;> simp [tlvDecode, tlvDecodeFrom, width_eq_two_iff, h, ParamMap.set]

/-- The three bytes of a two-byte tag's entry; for a one-byte tag they are its entry and a lone tag (R118). -/
theorem tlvDecode_entry2 (c : TlvTables) (t : Byte) (v : Half) :
    tlvDecode c [t, hi8 v, lo8 v] = [(t, if t ∈ c.twoByteTags then v else (hi8 v).setWidth 16)] := by
  by_cases h : t ∈ c.twoByteTags <;> simp [tlvDecode, tlvDecodeFrom, width_eq_two_iff, h, ParamMap.set]

/-- Settles O60: a wire row runs the operation of its rule on bytes that fit. -/
theorem wireRowsDeliverWhatTheirRulesSay : Obligations.WireRowsDeliverWhatTheirRulesSay := by
  refine ⟨?profile, ?default, ?property, ?brew, ?built, ?monitor, ?entry1, ?entry2⟩
  case profile =>
    intro len prof bev tlv crc s h
    obtain ⟨flags, hrecord⟩ := decodeRecipe_profileFrame Config.tables len prof bev tlv crc s
    refine ⟨flags, ?_, rfl⟩
    rw [← hrecord]
    exact exec_rcpDec_of_fits _ s (fits_frame [0xD0, len, 0xA6, 0xF0, prof, bev] tlv [hi8 crc, lo8 crc] h)
  case default =>
    intro len bev tlv crc s h
    obtain ⟨flags, hrecord⟩ := decodeRecipe_defaultFrame Config.tables len bev tlv crc s
    refine ⟨flags, ?_, rfl⟩
    rw [← hrecord]
    exact exec_rcpDec_of_fits _ s (fits_frame [0xD0, len, 0xB0, 0xF0, bev] tlv [hi8 crc, lo8 crc] h)
  case property =>
    intro len op payload crc s h
    obtain ⟨flags, hrecord⟩ := decodeProperty_frame len op payload crc s
    refine ⟨flags, ?_, rfl⟩
    rw [← hrecord]
    exact exec_propDec_of_fits _ s (fits_frame [0xD0, len, hi8 op, lo8 op] payload [hi8 crc, lo8 crc] h)
  case brew =>
    intro len bev trig tlv crc s h
    exact ⟨_, exec_frameBrew_of_fits len bev trig tlv crc s h, rfl, rfl, rfl⟩
  case built =>
    intro m bev trig s hm hlen
    refine ⟨_, exec_frameBrew_of_fits _ bev trig _ _ s (by rw [Config.maxOperand]; omega), ?_⟩
    rw [← brewFrame_eq_encode, buildBrew_complete, complete_obuf, tlvEncode_tlvDecode_tlvEncode Config.tables m hm]
  case monitor =>
    intro f s hfits hcrc
    obtain ⟨flags, extra, r, hrecord⟩ := decodeMonitor_frame f s hcrc
    refine ⟨flags, extra, r, ?_, rfl⟩
    rw [← hrecord]
    exact exec_monDec_of_fits _ s hfits
  case entry1 =>
    intro x v s
    rw [← tlvDecode_entry1]
    rfl
  case entry2 =>
    intro x v s
    rw [← tlvDecode_entry2]
    rfl

end Sys2Proof.Machine
end

section
/-! PROOFS. The statements about the frame decoders (spec/42_frame_decode R130 to R150). A frame whose checksum is right leaves the CRC register
at 0 (R102 law 2), so no frame with one flipped bit has a right checksum; the monitor decoder then raises a parse status and the lenient ones
clear `CRC_OK`. -/

namespace Sys2Proof.Machine

/-! ## The checksum of a frame (R108) -/

/-- A right CRC field leaves the register at 0: R102 law 2 on the bytes before it. -/
theorem crcReg_eq_zero_of_crcOk (f : Bytes) (h : crcOk f f.length = true) : crcReg f = 0 := by
  have hfield : crc16 (f.take (f.length - 2)) = f.drop (f.length - 2) := by simpa [crcOk] using h
  have hresidue : crcReg (f.take (f.length - 2) ++ crc16 (f.take (f.length - 2))) = 0 := crcResidueIsZero _
  rwa [hfield, List.take_append_drop] at hresidue

@[simp] theorem length_flipBit (f : Bytes) (i k : Nat) : (flipBit f i k).length = f.length := List.length_set

/-- A flipped bit takes the register away from 0 (R102 law 5). -/
theorem crcOk_flipBit (f : Bytes) (i k n : Nat) (hn : f.length = n) (h : crcOk f n = true) (hi : i < n) (hk : k < 8) :
    crcOk (flipBit f i k) n = false := by
  subst hn
  rw [Bool.eq_false_iff]
  intro hflip
  have hzero : crcReg (flipBit f i k) = 0 := crcReg_eq_zero_of_crcOk _ (by rwa [length_flipBit])
  exact singleBitFlipChangesTheCrc f i k crcInitValue hi hk (hzero.trans (crcReg_eq_zero_of_crcOk f h).symm)

/-- The CRC field of a frame is compared with the checksum of the bytes before it. -/
theorem crcOk_append (body : Bytes) (crc : Half) :
    crcOk (body ++ [hi8 crc, lo8 crc]) (body ++ [hi8 crc, lo8 crc]).length = decide (crcReg body = crc) := by
  have hcut : (body ++ [hi8 crc, lo8 crc]).length - 2 = body.length := by simp
  have hinj : halfBytes (crcReg body) = [hi8 crc, lo8 crc] ↔ crcReg body = crc := by
    refine ⟨fun h => ?_, fun h => h ▸ rfl⟩
    obtain ⟨hhi, hlo⟩ : hi8 (crcReg body) = hi8 crc ∧ lo8 (crcReg body) = lo8 crc := by simpa [halfBytes] using h
    rw [← be16_hi8_lo8 (crcReg body), hhi, hlo, be16_hi8_lo8]
  rw [crcOk, hcut, List.take_left, List.take_length, List.drop_left, Bool.beq_eq_decide_eq]
  exact decide_eq_decide.2 hinj

/-! ## The tests of a monitor frame (R132) -/

/-- The CRC field of test 3 is the one `crc_ok(F, L + 1)` compares (R108, R131). -/
theorem crcOk_eq_true_iff_slice (f : Bytes) (len : Nat) :
    crcOk f (len + 1) = true ↔ crc16 (f.take (len - 1)) = slice f (len - 1) (len + 1) := by
  simp [crcOk, slice]

theorem slice_crcField (f : Bytes) (len : Nat) (h : 1 ≤ len) : slice f (len - 1) (len + 1) = (f.drop (len - 1)).take 2 := by
  have htwo : len + 1 - (len - 1) = 2 := by omega
  rw [slice, List.drop_take, htwo]

theorem monitorCheck_short (f : Bytes) (h : f.length < 4) : monitorCheck f = some .parseShort := by
  simp [monitorCheck, h]

theorem monitorCheck_length (f : Bytes) (h4 : 4 ≤ f.length) (h : (byteAt f 1).toNat < 3 ∨ f.length < (byteAt f 1).toNat + 1) :
    monitorCheck f = some .parseLength := by
  unfold monitorCheck
  rw [if_neg (by omega), if_pos h]

/-- Past the first two tests, test 3 compares the CRC field and test 4 the length byte. -/
theorem monitorCheck_of_declared (f : Bytes) (h3 : 3 ≤ (byteAt f 1).toNat) (hlen : (byteAt f 1).toNat + 1 ≤ f.length) :
    monitorCheck f = if crcOk f ((byteAt f 1).toNat + 1) then (if (byteAt f 1).toNat ≠ 18 then some .parseContents else none)
      else some .parseCrc := by
  unfold monitorCheck
  rw [if_neg (by omega), if_neg (by omega), ite_not]
  simp only [crcOk_eq_true_iff_slice]

/-- A frame that passes the four tests has length byte 18 and its checksum behind 17 bytes. -/
theorem length_and_crc_of_monitorCheck (f : Bytes) (h : monitorCheck f = none) : (byteAt f 1).toNat = 18 ∧ crcOk f 19 = true := by
  unfold monitorCheck at h
  dsimp only at h
  split_ifs at h with hshort hlength hcrc hcontents
  have h18 : (byteAt f 1).toNat = 18 := not_not.1 hcontents
  rw [not_not, ← crcOk_eq_true_iff_slice, h18] at hcrc
  exact ⟨h18, hcrc⟩

/-! ## Monitor frames -/

/-- A failing test is raised with the raw length and nothing else (R133). -/
theorem exec_monDec_of_failing (f : Bytes) (s : State) (st : Status) (hf : Fits f) (h : monitorCheck f = some st) :
    exec (.monDec f) s = .next (s.withResults st.code 0x00 [] (.rawlen (BitVec.ofNat 16 f.length))) := by
  rw [exec_monDec_of_fits f s hf, decodeMonitor, h]
  rfl

/-- Settles O34: each test fails after the ones before it pass. -/
theorem monitorTestsInOrder : Obligations.MonitorTestsInOrder := by
  intro f s hf
  dsimp only
  refine ⟨fun hshort => exec_monDec_of_failing f s _ hf (monitorCheck_short f hshort),
    fun h4 hlen => exec_monDec_of_failing f s _ hf (monitorCheck_length f h4 hlen),
    fun _ h3 hlen hcrc => exec_monDec_of_failing f s .parseCrc hf ?crc,
    fun _ h3 hlen hcrc h18 => exec_monDec_of_failing f s .parseContents hf ?contents⟩
  all_goals
    rw [monitorCheck_of_declared f h3 hlen]
    rw [← slice_crcField f _ (by omega)] at hcrc
  case crc => exact if_neg (mt (crcOk_eq_true_iff_slice f _).1 hcrc)
  case contents => exact (if_pos ((crcOk_eq_true_iff_slice f _).2 hcrc)).trans (if_pos h18)

/-- The record of a frame holds the fields of the row (R68, R136). -/
theorem monitorRecord_encode (f : MonitorFrame) : monitorRecord (encode (.frameMonitor f)) =
    { direction := f.direction, length := 18, requestId := f.requestId, answerRequired := f.answerRequired, accessory := f.accessory,
      switches := f.switches, alarms := #v[f.alarmsLo[0], f.alarmsLo[1], f.alarmsHi[0], f.alarmsHi[1]], status := f.status,
      action := f.action, progress := f.progress, rsv := f.rsv, crc := f.crc, timestamp := monitorTimestamp (encode (.frameMonitor f)),
      rawlen := BitVec.ofNat 16 (19 + f.trailing.length) } := by
  have hlen : rawLength (encode (.frameMonitor f)) = BitVec.ofNat 16 (19 + f.trailing.length) := by
    rw [rawLength, encode, List.length_append]
    rfl
  rw [monitorRecord, hlen]
  simp [encode, byteAt, vector_two_eta, vector_three_eta]

@[simp] theorem monitorTrailing_encode (f : MonitorFrame) : monitorTrailing (encode (.frameMonitor f)) = f.trailing := rfl

/-- Fewer than 4 trailing bytes hold no timestamp (R138). -/
theorem monitorTimestamp_of_short (f : Bytes) (h : (monitorTrailing f).length < 4) : monitorTimestamp f = none := by
  rw [monitorTrailing, List.length_drop] at h
  rw [monitorTimestamp_eq, if_neg (by omega)]

theorem monitorTimestamp_of_long (f : Bytes) (z₀ z₁ z₂ z₃ : Byte) (extra : Bytes)
    (h : monitorTrailing f = z₀ :: z₁ :: z₂ :: z₃ :: extra) : monitorTimestamp f = some #v[z₀, z₁, z₂, z₃] := by
  simp [monitorTimestamp, h]

/-- The flags of a decoded monitor frame as a byte (R134). -/
theorem monitorFlags_eq (tsValid : Bool) : monitorFlags tsValid = if tsValid then 0x0B else 0x03 := by cases tsValid <;> rfl

/-- Settles O35: the frame passes the tests, and its trailing region decides between the two records. -/
theorem monitorFrameDeliversItsRecord : Obligations.MonitorFrameDeliversItsRecord := by
  intro f s hf hcrc
  have hcheck : monitorCheck (encode (.frameMonitor f)) = none := monitorCheck_eq_none _ (by simp [encode]) rfl hcrc.symm
  dsimp only
  rw [exec_monDec_of_fits _ s hf, decodeMonitor, hcheck, monitorRecord_encode, monitorFlags_eq]
  refine ⟨fun hshort => ?noTimestamp, fun z₀ z₁ z₂ z₃ extra hz => ?timestamp⟩
  case noTimestamp =>
    have hts := monitorTimestamp_of_short (encode (.frameMonitor f)) hshort
    simp only [monitorExtra, hts]
    rfl
  case timestamp =>
    have hts := monitorTimestamp_of_long (encode (.frameMonitor f)) z₀ z₁ z₂ z₃ extra hz
    simp only [monitorExtra, hts, monitorTrailing_encode, hz]
    rfl

theorem byteAt_flipBit_other (f : Bytes) (i j k : Nat) (h : i ≠ j) : byteAt (flipBit f i k) j = byteAt f j := by
  simp [byteAt, flipBit, h]

/-- A frame with a flipped bit does not have its checksum behind 17 bytes. -/
theorem monitorCheck_flipBit_ne_none (f : Bytes) (i k : Nat) (h19 : f.length = 19) (hf : monitorCheck f = none) (hi : i < 19) (hk : k < 8) :
    monitorCheck (flipBit f i k) ≠ none := by
  intro hflip
  have hright : crcOk (flipBit f i k) 19 = true := (length_and_crc_of_monitorCheck _ hflip).2
  have hwrong : crcOk (flipBit f i k) 19 = false := crcOk_flipBit f i k 19 h19 (length_and_crc_of_monitorCheck f hf).2 hi hk
  exact Bool.false_ne_true (hwrong.symm.trans hright)

/-- A flip outside the length byte passes the length tests and fails the CRC test. -/
theorem monitorCheck_flipBit_other (f : Bytes) (i k : Nat) (h19 : f.length = 19) (hf : monitorCheck f = none) (hi : i < 19) (hk : k < 8)
    (h1 : i ≠ 1) : monitorCheck (flipBit f i k) = some .parseCrc := by
  obtain ⟨h18, hcrc⟩ := length_and_crc_of_monitorCheck f hf
  have hflip : crcOk (flipBit f i k) 19 = false := crcOk_flipBit f i k 19 h19 hcrc hi hk
  have hbyte : (byteAt (flipBit f i k) 1).toNat = 18 := by rw [byteAt_flipBit_other f i 1 k h1, h18]
  rw [monitorCheck_of_declared _ (by omega) (by rw [length_flipBit]; omega), hbyte, hflip]
  rfl

theorem code_ne_zero_of_monitorCheck (f : Bytes) (st : Status) (h : monitorCheck f = some st) : st.code ≠ 0x00 := by
  rcases monitorCheck_status f st h with rfl | rfl | rfl | rfl <;> decide

/-- Settles O36: some test fails, and outside the length byte it is the CRC test. -/
theorem monitorFrameWithAFlippedBitNeverDecodes : Obligations.MonitorFrameWithAFlippedBitNeverDecodes := by
  intro f i k s h19 hf hi hk
  have hfits : Fits (flipBit f i k) := by
    rw [Fits, length_flipBit, h19]
    decide
  obtain ⟨st, hst⟩ := Option.ne_none_iff_exists'.1 (monitorCheck_flipBit_ne_none f i k h19 hf hi hk)
  refine ⟨_, exec_monDec_of_failing _ s st hfits hst, code_ne_zero_of_monitorCheck _ st hst, fun h1 => ?_⟩
  obtain rfl : Status.parseCrc = st := Option.some.inj ((monitorCheck_flipBit_other f i k h19 hf hi hk h1).symm.trans hst)
  rfl

/-! ## Recipe and property frames -/

/-- `LEN_OK` of a frame with its bytes counted (R140). -/
theorem lenOk_eq (f : Bytes) (n : Nat) (h : f.length = n + 1) : lenOk f = decide ((byteAt f 1).toNat = n) := by
  rw [lenOk, h, Nat.add_sub_cancel]
  rfl

/-- The two lenient flags as a byte (R146). -/
theorem propertyFlags_eq (p q : Prop) [Decidable p] [Decidable q] : propertyFlags (decide p) (decide q) =
    (if p then 0x01 else 0x00) ||| (if q then 0x02 else 0x00) := by
  by_cases p <;> by_cases q <;> simp [propertyFlags, flagByte, Flag.bit, *]

/-- A recipe frame has the same two flags, and `PROFILE_VALID` (R141). -/
theorem recipeFlags_true (crcOk lenOk : Bool) : recipeFlags crcOk lenOk true = propertyFlags crcOk lenOk ||| 0x10 := rfl

theorem recipeFlags_false (crcOk lenOk : Bool) : recipeFlags crcOk lenOk false = propertyFlags crcOk lenOk := by
  cases crcOk <;> cases lenOk <;> rfl

/-- The results of a recipe frame of known format (R141, R142). -/
theorem decodeRecipe_profile (c : TlvTables) (f : Bytes) (s : State) (h : recipeFormat f = .profile) : decodeRecipe c f s =
    s.withResults 0x00 (recipeFlags (crcOk f f.length) (lenOk f) true) [] (.recipe (recipeRecord c f .profile)) := by
  rw [decodeRecipe, h]
  rfl

theorem decodeRecipe_default (c : TlvTables) (f : Bytes) (s : State) (h : recipeFormat f = .default) : decodeRecipe c f s =
    s.withResults 0x00 (recipeFlags (crcOk f f.length) (lenOk f) false) [] (.recipe (recipeRecord c f .default)) := by
  rw [decodeRecipe, h]
  rfl

/-- A frame of unknown format leaves its hex text and no flag (R141, R144). -/
theorem decodeRecipe_unknown (c : TlvTables) (f : Bytes) (s : State) (h : recipeFormat f = .unknown) : decodeRecipe c f s =
    s.withResults 0x00 0x00 (hexEncode f) (.recipe ⟨.unknown, none, none, none, none, none⟩) := by
  rw [decodeRecipe, h]
  rfl

/-- Settles O37: the format decides the record, and the two lenient flags are comparisons with the bytes there are. -/
theorem recipeFramesDecodeLeniently : Obligations.RecipeFramesDecodeLeniently := by
  refine ⟨fun len prof bev tlv crc s h => ?profile, fun len bev tlv crc s h => ?default, fun f s hf hp hd => ?unknown⟩
  case profile =>
    rw [exec_rcpDec_of_fits _ s (fits_frame [0xD0, len, 0xA6, 0xF0, prof, bev] tlv [hi8 crc, lo8 crc] h),
      decodeRecipe_profile _ _ s (recipeFormat_profileFrame ..), recipeRecord_profileFrame, crcOk_append,
      lenOk_eq _ (tlv.length + 7) (by simp), recipeFlags_true, propertyFlags_eq]
    rfl
  case default =>
    rw [exec_rcpDec_of_fits _ s (fits_frame [0xD0, len, 0xB0, 0xF0, bev] tlv [hi8 crc, lo8 crc] h),
      decodeRecipe_default _ _ s (recipeFormat_defaultFrame ..), recipeRecord_defaultFrame, crcOk_append,
      lenOk_eq _ (tlv.length + 6) (by simp), recipeFlags_false, propertyFlags_eq]
    rfl
  case unknown => rw [exec_rcpDec_of_fits f s hf, decodeRecipe_unknown _ f s (recipeFormat_of_other f hp hd)]

/-- The results of a decodable property frame (R146, R147). -/
theorem decodeProperty_decodable (f : Bytes) (s : State) (hlen : 6 ≤ f.length) (hmarker : byteAt f 0 = 0xD0) : decodeProperty f s =
    s.withResults 0x00 (propertyFlags (crcOk f f.length) (lenOk f)) (slice f 4 (f.length - 2))
      (.property ⟨.frame, some (commandWord f), some (byteAt f 1)⟩) := if_pos ⟨hlen, hmarker⟩

/-- The results of any other frame (R146, R147). -/
theorem decodeProperty_other (f : Bytes) (s : State) (h : ¬ (6 ≤ f.length ∧ byteAt f 0 = 0xD0)) : decodeProperty f s =
    s.withResults 0x00 0x00 [] (.property ⟨.none, none, none⟩) := if_neg h

theorem head?_eq_some_byteAt (f : Bytes) (h : f ≠ []) : f.head? = some (byteAt f 0) := by
  cases f with
  | nil => exact (h rfl).elim
  | cons x f => rfl

/-- Settles O38: marker and size decide, the payload lies between the opcode and the CRC field. -/
theorem propertyFramesDecodeLeniently : Obligations.PropertyFramesDecodeLeniently := by
  refine ⟨fun len opcode payload crc s h => ?decodable, fun f s hf hother => ?other⟩
  case decodable =>
    have hpayload := slice_between [0xD0, len, hi8 opcode, lo8 opcode] payload [hi8 crc, lo8 crc]
    have hword : commandWord ([0xD0, len, hi8 opcode, lo8 opcode] ++ payload ++ [hi8 crc, lo8 crc]) = opcode := be16_hi8_lo8 opcode
    simp only [List.length_cons, List.length_nil, Nat.zero_add, Nat.reduceAdd] at hpayload
    rw [exec_propDec_of_fits _ s (fits_frame [0xD0, len, hi8 opcode, lo8 opcode] payload [hi8 crc, lo8 crc] h),
      decodeProperty_decodable _ s (by simp) rfl, hpayload, hword, crcOk_append, lenOk_eq _ (payload.length + 5) (by simp), propertyFlags_eq]
    rfl
  case other =>
    rw [exec_propDec_of_fits f s hf, decodeProperty_other f s]
    rintro ⟨hlen, hmarker⟩
    have hhead : f.head? = some 0xD0 := hmarker ▸ head?_eq_some_byteAt f (List.ne_nil_of_length_pos (by omega))
    rcases hother with hshort | hno
    · omega
    · exact hno hhead

/-- `CRC_OK` reads back as it was set (R19). -/
theorem flagSet_recipeFlags_crcOk (crcOk lenOk profile : Bool) : flagSet (recipeFlags crcOk lenOk profile) .crcOk = crcOk := by
  cases crcOk <;> cases lenOk <;> cases profile <;> rfl

theorem flagSet_propertyFlags_crcOk (crcOk lenOk : Bool) : flagSet (propertyFlags crcOk lenOk) .crcOk = crcOk := by
  cases crcOk <;> cases lenOk <;> rfl

theorem flagSet_noFlags (g : Flag) : flagSet 0x00 g = false := by cases g <;> decide

/-- A recipe frame with a wrong checksum completes without `CRC_OK`, whatever its format (R141). -/
theorem decodeRecipe_of_badCrc (c : TlvTables) (f : Bytes) (s : State) (h : crcOk f f.length = false) :
    (decodeRecipe c f s).status = 0x00 ∧ flagSet (decodeRecipe c f s).flags .crcOk = false := by
  cases hformat : recipeFormat f with
  | unknown => rw [decodeRecipe_unknown c f s hformat]; exact ⟨rfl, flagSet_noFlags _⟩
  | profile => rw [decodeRecipe_profile c f s hformat, h]; exact ⟨rfl, flagSet_recipeFlags_crcOk ..⟩
  | default => rw [decodeRecipe_default c f s hformat, h]; exact ⟨rfl, flagSet_recipeFlags_crcOk ..⟩

/-- A property frame with a wrong checksum completes without `CRC_OK`, decodable or not (R146). -/
theorem decodeProperty_of_badCrc (f : Bytes) (s : State) (h : crcOk f f.length = false) :
    (decodeProperty f s).status = 0x00 ∧ flagSet (decodeProperty f s).flags .crcOk = false := by
  by_cases hdecodable : 6 ≤ f.length ∧ byteAt f 0 = 0xD0
  · obtain ⟨hlen, hmarker⟩ := hdecodable
    rw [decodeProperty_decodable f s hlen hmarker, h]
    exact ⟨rfl, flagSet_propertyFlags_crcOk ..⟩
  · rw [decodeProperty_other f s hdecodable]
    exact ⟨rfl, flagSet_noFlags _⟩

/-- Settles O39: the flipped frame has a wrong checksum. -/
theorem lenientFrameWithAFlippedBitReportsBadCrc : Obligations.LenientFrameWithAFlippedBitReportsBadCrc := by
  intro f i k s hf _ hcrc hi hk
  have hfits : Fits (flipBit f i k) := by rwa [Fits, length_flipBit]
  have hbad : crcOk (flipBit f i k) (flipBit f i k).length = false := by rw [length_flipBit, crcOk_flipBit f i k _ rfl hcrc hi hk]
  exact ⟨⟨_, exec_rcpDec_of_fits _ s hfits, decodeRecipe_of_badCrc _ _ s hbad⟩,
    ⟨_, exec_propDec_of_fits _ s hfits, decodeProperty_of_badCrc _ s hbad⟩⟩

/-! ## Built frames (R150) -/

theorem byteAt_zero_brewFrame (bev trig : Byte) (tlv : Bytes) : byteAt (brewFrame bev trig tlv) 0 = 0x0D := rfl

theorem byteAt_one_brewFrame (bev trig : Byte) (tlv : Bytes) (h : tlv.length + 7 ≤ 255) :
    (byteAt (brewFrame bev trig tlv) 1).toNat = tlv.length + 7 := by
  have hbyte : byteAt (brewFrame bev trig tlv) 1 = BitVec.ofNat 8 (tlv.length + 7) := rfl
  rw [hbyte, BitVec.toNat_ofNat, Nat.mod_eq_of_lt (by omega)]

theorem crcOk_brewFrame (bev trig : Byte) (tlv : Bytes) : crcOk (brewFrame bev trig tlv) (tlv.length + 8) = true := by
  rw [← length_brewFrame bev trig tlv]
  exact (crcOk_append _ _).trans (decide_eq_true rfl)

/-- A built frame whose length fits its byte passes the first three tests. -/
theorem monitorCheck_brewFrame (bev trig : Byte) (tlv : Bytes) (h : tlv.length + 7 ≤ 255) :
    monitorCheck (brewFrame bev trig tlv) = if tlv.length + 7 ≠ 18 then some .parseContents else none := by
  have hbyte := byteAt_one_brewFrame bev trig tlv h
  rw [monitorCheck_of_declared _ (by omega) (by rw [length_brewFrame]; omega), hbyte, crcOk_brewFrame]
  rfl

/-- A built frame fits an operand: its TLV part is at most 768 bytes (R113). -/
theorem fits_brewFrame (c : TlvTables) (bev trig : Byte) (m : ParamMap) (h : m.Sorted) : Fits (brewFrame bev trig (tlvEncode c m)) := by
  obtain ⟨-, hbound, -⟩ := tlvEncodingLength c m h
  rw [Fits, length_brewFrame, Config.maxOperand]
  omega

/-- Settles O41: the marker is `0x0D`, and the length byte and checksum are right. -/
theorem decodersOnABrewFrame : Obligations.DecodersOnABrewFrame := by
  intro c bev trig m hm
  have hmarker : byteAt (brewFrame bev trig (tlvEncode c m)) 0 ≠ 0xD0 := by rw [byteAt_zero_brewFrame]; decide
  refine ⟨if_pos (.inr hmarker), fun s => ?property, fun h255 h18 => ?contents, fun h18 => ?passes⟩
  case property =>
    rw [exec_propDec_of_fits _ s (fits_brewFrame c bev trig m hm), decodeProperty_other _ s fun h => hmarker h.2]
  case contents => rw [monitorCheck_brewFrame _ _ _ h255, if_pos h18]
  case passes => rw [monitorCheck_brewFrame _ _ _ (by omega), if_neg (not_not.2 h18)]

end Sys2Proof.Machine
end

section
/-! PROOFS. The statements about the command frame builder (spec/43_frame_build R161 to R164): `BREW` completes with the frame that
`brewFrame_eq_encode` writes out, whose checksum leaves no residue, and the stop command is one such frame. -/

namespace Sys2Proof.Machine

/-! ## The brew frame -/

/-- `LEN_OVF` is the builder's only flag (R19, R163). -/
theorem brewFlags_eq (lenOvf : Bool) : brewFlags lenOvf = if lenOvf then 0x04 else 0x00 := by cases lenOvf <;> rfl

/-- `BREW` with its flags and its frame written out (R161, R163). -/
theorem buildBrew_eq (c : TlvTables) (bev trig : Byte) (m : ParamMap) (s : State) :
    let tlv := tlvEncode c m
    let pre : Bytes := [0x0D, lo8 (BitVec.ofNat 16 (tlv.length + 7)), 0x83, 0xF0, bev, trig] ++ tlv
    buildBrew c bev trig m s = s.withResults 0x00 (if 255 < tlv.length + 7 then 0x04 else 0x00)
      (pre ++ [hi8 (crcReg pre), lo8 (crcReg pre)]) .none := by
  intro tlv pre
  have hflags : brewFlags (decide (255 < brewLength tlv)) = if 255 < tlv.length + 7 then 0x04 else 0x00 := by
    rw [brewFlags_eq, brewLength]
    simp only [decide_eq_true_eq]
  rw [buildBrew_complete, hflags, brewFrame_eq_encode]
  rfl

/-- A built frame carries its checksum, so it leaves no residue (R102 law 2, R161). -/
theorem crcReg_brewFrame (bev trig : Byte) (tlv : Bytes) : crcReg (brewFrame bev trig tlv) = 0 := crcResidueIsZero _

/-- A built frame from the values of its length byte and its checksum (R161). -/
theorem brewFrame_of_values (len bev trig : Byte) (tlv : Bytes) (crc : Half)
    (hcrc : crcReg (0x0D :: len :: 0x83 :: 0xF0 :: bev :: trig :: tlv) = crc) (hlen : BitVec.ofNat 8 (tlv.length + 7) = len) :
    brewFrame bev trig tlv = 0x0D :: len :: 0x83 :: 0xF0 :: bev :: trig :: (tlv ++ [hi8 crc, lo8 crc]) := by
  subst hlen hcrc
  rfl

/-- Settles O40: the frame written out, its length and its residue; the example from its encoded parameters. -/
theorem brewBuildsItsFrame : Obligations.BrewBuildsItsFrame := by
  refine ⟨fun bev trig m s => congrArg Host.Outcome.next (buildBrew_eq Config.tables bev trig m s), fun c bev trig m hm => ?shape, rfl,
    ?specExample⟩
  case shape =>
    obtain ⟨-, hbound, -⟩ := tlvEncodingLength c m hm
    have hlength := length_brewFrame bev trig (tlvEncode c m)
    exact ⟨by omega, hlength, crcReg_brewFrame bev trig _⟩
  case specExample =>
    have hcrc : crcReg [0x0D, 0x0D, 0x83, 0xF0, 0x01, 0x01, 0x01, 0x24, 0x1B, 0x04, 0x02, 0x05] = 0x026E := by
      simp [crcReg, crcInitValue, crcStep, crcShifts, crcShift, BitVec.msb_eq_decide]
    rw [tlvEncode_cfgA_example, brewFrame_of_values _ _ _ _ _ hcrc rfl]
    rfl

/-! ## The stop command -/

/-- Under CFG-A both parameters of the stop command are single bytes (R164). -/
theorem tlvEncode_stop_cfgA : tlvEncode cfgA [(0x0F, 250), (0x1B, 1)] = [0x1B, 0x01, 0x0F, 0xFA] := by decide

/-- Under CFG-B tag `0x0F` takes two bytes (R164). -/
theorem tlvEncode_stop_cfgB : tlvEncode cfgB [(0x0F, 250), (0x1B, 1)] = [0x1B, 0x01, 0x0F, 0x00, 0xFA] := by decide

/-- Settles O42: the expansion is a `BREW`, whose frame is its first six bytes, its parameters and their checksum. -/
theorem stopCommandFrame : Obligations.StopCommandFrame := by
  obtain ⟨-, -, -, -, -, -, hdescriptor⟩ := writtenDescriptorsDecode
  refine ⟨fun c bev s => ⟨_, rfl, rfl, rfl, rfl⟩, fun s => rfl, hdescriptor, ?cfgA, ?cfgB⟩
  case cfgA =>
    have hcrc : crcReg [0x0D, 0x0B, 0x83, 0xF0, 0x10, 0x02, 0x1B, 0x01, 0x0F, 0xFA] = 0x20F1 := by
      simp [crcReg, crcInitValue, crcStep, crcShifts, crcShift, BitVec.msb_eq_decide]
    rw [buildBrew_complete, complete_obuf, tlvEncode_stop_cfgA, brewFrame_of_values _ _ _ _ _ hcrc rfl]
    rfl
  case cfgB =>
    have hcrc : crcReg [0x0D, 0x0C, 0x83, 0xF0, 0x10, 0x02, 0x1B, 0x01, 0x0F, 0x00, 0xFA] = 0x7BC7 := by
      simp [crcReg, crcInitValue, crcStep, crcShifts, crcShift, BitVec.msb_eq_decide]
    rw [buildBrew_complete, complete_obuf, tlvEncode_stop_cfgB, brewFrame_of_values _ _ _ _ _ hcrc rfl]
    rfl

end Sys2Proof.Machine
end

section
/-! PROOFS. The statements about the hashes and the key commands (spec/44_hash_hmac_kdf): the lengths R172 to R183 give, what `DERIVE` (R189),
`SETKEY` (R188) and `EXPIRE` (R190) leave behind in every session state, and the spec's check values (R174, R210). -/

namespace Sys2Proof.Machine

/-! ## Lengths -/

/-- The padding begins with the message itself (R172). -/
theorem prefix_shaPad (m : Bytes) : m <+: shaPad m := by
  rw [shaPad, List.append_assoc]
  exact List.prefix_append ..

/-- One byte, the fewest zero bytes up to 56 modulo 64, and the 8 bytes of the length fill the last block (R172). -/
theorem length_shaPad_mod (m : Bytes) : (shaPad m).length % 64 = 0 := by
  simp only [shaPad, be64, List.length_append, List.length_cons, List.length_replicate, length_wordBytes]
  omega

/-- A key longer than a block is hashed to half a block, so the zero fill always reaches 64 bytes (R180). -/
theorem length_hmacKey (key : Bytes) : (hmacKey key).length = 64 := by
  unfold hmacKey
  split_ifs with hlong
  · simp
  · simp only [List.length_append, List.length_replicate]
    omega

/-- Settles O48. -/
theorem hashesAre32Bytes : Obligations.HashesAre32Bytes :=
  ⟨length_sha256, length_hmac, fun m => ⟨length_shaPad_mod m, prefix_shaPad m⟩, length_hmacKey⟩

/-! ## `DERIVE` -/

/-- With operands that fit only the LAN key decides what `DERIVE` does (R189). -/
theorem exec_derive_of_fits (ar dr atm dtm : Bytes) (s : State) (har : Fits ar) (hdr : Fits dr) (hatm : Fits atm) (hdtm : Fits dtm) :
    (s.lanKey = none → exec (.derive ar dr atm dtm) s = .next (raise .noLanKey s)) ∧
      ∀ k, s.lanKey = some k → exec (.derive ar dr atm dtm) s =
        .next (complete noFlags [] .none (installSecrets (deriveSecrets k ⟨ar, dr, atm, dtm⟩) { s with sess := .derived })) := by
  have hfits : ∀ b ∈ [ar, dr, atm, dtm], b.length ≤ Config.maxOperand := by
    simpa using ⟨har, hdr, hatm, hdtm⟩
  simp only [exec, execDerive, withOperands_of_fits _ s _ hfits]
  constructor
  · intro hnone
    rw [hnone, raised]
  · intro k hk
    rw [hk]

/-- Settles O44: the five derived secrets are the nested HMACs of R184 and R185 as `deriveSecrets` writes them. -/
theorem deriveInstallsTheFiveSecrets : Obligations.DeriveInstallsTheFiveSecrets := by
  refine ⟨fun k ar dr atm dtm s har hdr hatm hdtm hk => ?withKey, fun ar dr atm dtm s har hdr hatm hdtm hnone => ?withoutKey⟩
  all_goals obtain ⟨hwithout, hwith⟩ := exec_derive_of_fits ar dr atm dtm s har hdr hatm hdtm
  case withKey => exact hwith k hk
  case withoutKey => exact hwithout hnone

/-! ## `SETKEY` and `EXPIRE` -/

theorem not_live_iff (x : Sess) : x.live = false ↔ x = .uninit ∨ x = .expired := by cases x <;> simp [Sess.live]

theorem exec_setKey_of_fits (k : Bytes) (s : State) (h : Fits k) :
    exec (.setKey k) s = .next (complete noFlags [] .none (invalidate { s with lanKey := some k })) :=
  withOperands_of_fits _ _ _ (by simpa using h)

theorem exec_expire (s : State) : exec .expire s = .next (complete noFlags [] .none (invalidate s)) := rfl

/-- A command that ends a live session and completes clears `SESS`, the secrets and the results (R188, R190). -/
theorem complete_invalidate_of_live (s : State) (h : s.sess = .derived ∨ s.sess = .active) :
    complete noFlags [] .none (invalidate s) = State.withResults (s.withSession .expired none none none none none) 0x00 0x00 [] .none := by
  rw [invalidate_of_live s ((live_iff _).2 h)]
  rfl

/-- Without a live session it clears the results only (R188, R190). -/
theorem complete_invalidate_of_not_live (s : State) (h : s.sess = .uninit ∨ s.sess = .expired) :
    complete noFlags [] .none (invalidate s) = s.withResults 0x00 0x00 [] .none := by
  rw [invalidate_of_not_live s ((not_live_iff _).2 h)]
  rfl

/-- `SSTAT` does not depend on the results (R20). -/
theorem sstat_withResults (s : State) (status flags : Byte) (out : Bytes) (r : Res) :
    sstat (s.withResults status flags out r) = sstatOf s.sess s.lanKey.isSome := rfl

/-- Replacing the session keeps the LAN key, so `SSTAT` shows the new `SESS` and the old `LANKEY_VALID` (R20). -/
theorem sstatOf_withSession (s : State) (x : Sess) (kSign kApp ivApp kDev ivDev : Option Bytes) :
    let t := s.withSession x kSign kApp ivApp kDev ivDev
    sstatOf t.sess t.lanKey.isSome = sstatOf x s.lanKey.isSome := rfl

/-- `SSTAT` with a LAN key and no session yet (R188). -/
theorem sstatOf_uninit_lanKey : sstatOf .uninit true = 0x80 := rfl

/-- `SSTAT` with a LAN key after the end of a session (R190). -/
theorem sstatOf_expired_lanKey : sstatOf .expired true = 0x83 := rfl

/-- Settles O43: both commands are `invalidate` followed by `complete`, in a live session and outside one. -/
theorem setKeyAndExpireEndALiveSession : Obligations.SetKeyAndExpireEndALiveSession := by
  refine ⟨fun k s hk hlive => ?setKeyLive, fun k s hk hdead => ?setKeyDead, fun s hlive => ?expireLive, fun s hdead => ?expireDead,
    rfl, rfl, fun k t hk ht => ?sstatSetKey, fun s t hactive hlan ht => ?sstatExpire⟩
  case setKeyLive => rw [exec_setKey_of_fits k s hk, complete_invalidate_of_live { s with lanKey := some k } hlive]
  case setKeyDead => rw [exec_setKey_of_fits k s hk, complete_invalidate_of_not_live { s with lanKey := some k } hdead]
  case expireLive => rw [exec_expire, complete_invalidate_of_live s hlive]
  case expireDead => rw [exec_expire, complete_invalidate_of_not_live s hdead]
  case sstatSetKey =>
    rw [exec_setKey_of_fits k _ hk, complete_invalidate_of_not_live { State.reset with lanKey := some k } (.inl rfl)] at ht
    cases ht
    exact sstatOf_uninit_lanKey
  case sstatExpire =>
    rw [exec_expire, complete_invalidate_of_live s (.inr hactive)] at ht
    cases ht
    rw [sstat_withResults, sstatOf_withSession, Option.isSome_iff_ne_none.2 hlan]
    exact sstatOf_expired_lanKey

/-! ## Check values -/

/-- The three bytes `abc` pad to one block: the message with its `1` bit, zeros, and its length of 24 bits (R172). -/
theorem blocks_shaPad_abc : blocks 16 ((shaPad [0x61, 0x62, 0x63]).length / 64) (words (shaPad [0x61, 0x62, 0x63])) =
    [[0x61626380, 0, 0, 0, 0, 0, 0, 0, 0, 0, 0, 0, 0, 0, 0, 0x18]] := by decide

/-- The 64 rounds on that block (R173). -/
theorem compress_abc : compress shaInit [0x61626380, 0, 0, 0, 0, 0, 0, 0, 0, 0, 0, 0, 0, 0, 0, 0x18] =
    ⟨0xba7816bf, 0x8f01cfea, 0x414140de, 0x5dae2223, 0xb00361a3, 0x96177a9c, 0xb410ff61, 0xf20015ad⟩ := by decide +kernel

theorem sha256_abc : sha256 [0x61, 0x62, 0x63] =
    [0xba, 0x78, 0x16, 0xbf, 0x8f, 0x01, 0xcf, 0xea, 0x41, 0x41, 0x40, 0xde, 0x5d, 0xae, 0x22, 0x23,
     0xb0, 0x03, 0x61, 0xa3, 0x96, 0x17, 0x7a, 0x9c, 0xb4, 0x10, 0xff, 0x61, 0xf2, 0x00, 0x15, 0xad] := by
  rw [sha256, blocks_shaPad_abc, List.foldl_cons, compress_abc]
  decide

/-- The key schedule of the check key `00 01 .. 1f` (R205, R210). -/
def checkKeySchedule : List Column := keyExpand ((List.range 32).map (BitVec.ofNat 8))

/-- The check block `00 11 .. ff` as the cipher's state (R201, R210). -/
def checkBlock : AesState :=
  .ofBytes [0x00, 0x11, 0x22, 0x33, 0x44, 0x55, 0x66, 0x77, 0x88, 0x99, 0xaa, 0xbb, 0xcc, 0xdd, 0xee, 0xff]

/-- The last four words of the check key's schedule (R205). -/
theorem roundKey_checkKeySchedule : roundKey checkKeySchedule 14 =
    ⟨⟨0x24, 0xfc, 0x79, 0xcc⟩, ⟨0xbf, 0x09, 0x79, 0xe9⟩, ⟨0x37, 0x1a, 0xc2, 0x3c⟩, ⟨0x6d, 0x68, 0xde, 0x36⟩⟩ := by decide +kernel

/-- The check block after its thirteen middle rounds (R207). -/
theorem middleRounds_checkBlock :
    middleRounds.foldl (encRound checkKeySchedule) (checkBlock.xor (roundKey checkKeySchedule 0)) =
      ⟨⟨0x62, 0x7b, 0xce, 0xb9⟩, ⟨0x99, 0x9d, 0x5a, 0xaa⟩, ⟨0xc9, 0x45, 0xec, 0xf4⟩, ⟨0x23, 0xf5, 0x6d, 0xa5⟩⟩ := by decide +kernel

/-- The last round, which mixes no columns, and the bytes of the state (R207). -/
theorem encryptBlock_checkBlock : (encryptBlock checkKeySchedule checkBlock).bytes =
    [0x8e, 0xa2, 0xb7, 0xca, 0x51, 0x67, 0x45, 0xbf, 0xea, 0xfc, 0x49, 0x90, 0x4b, 0x49, 0x60, 0x89] := by
  rw [encryptBlock, middleRounds_checkBlock, roundKey_checkKeySchedule]
  decide

/-- Settles O49: one SHA-256 block and one AES-256 block, each from the value before its last step. -/
theorem hashAndCipherCheckValues : Obligations.HashAndCipherCheckValues := ⟨sha256_abc, encryptBlock_checkBlock⟩

end Sys2Proof.Machine
end

section
/-! PROOFS. AES-256 decryption inverts encryption, block by block and in CBC mode (spec/45_aes_cbc R209, R228, R232). Every step of a round
has an inverse; the one that takes arithmetic is the column mix, which is additive and whose two matrices are circulant, so that one row
decides it. -/

namespace Sys2Proof.Machine

/-! ## Multiplication in GF(2^8) is additive (R202) -/

/-- Doubling distributes; of the reductions, one stays and two cancel. -/
theorem xtime_xor (a b : Byte) : xtime (a ^^^ b) = xtime a ^^^ xtime b := by
  have hshift : (a ^^^ b) <<< 1 = a <<< 1 ^^^ b <<< 1 := BitVec.shiftLeft_xor_distrib a b 1
  unfold xtime
  rw [BitVec.msb_xor, hshift]
  cases a.msb <;> cases b.msb <;> simp only [Bool.xor_self, Bool.xor_true, Bool.xor_false, Bool.not_false, if_true]
  case false.false => rfl
  case false.true => exact BitVec.xor_assoc ..
  case true.false =>
    rw [if_neg Bool.false_ne_true]
    ac_rfl
  case true.true =>
    rw [if_neg Bool.false_ne_true, BitVec.xor_comm (b <<< 1), BitVec.xor_assoc, ← BitVec.xor_assoc 0x1B, BitVec.xor_self, BitVec.zero_xor]

theorem xtimes_xor (k : Nat) (a b : Byte) : xtimes k (a ^^^ b) = xtimes k a ^^^ xtimes k b := by
  induction k with
  | zero => rfl
  | succ k ih => rw [xtimes, ih, xtime_xor]; rfl

/-- The sum that defines `gmul a k`, over some of the bits of `k` and after the terms already added. -/
def addProducts (a k acc : Byte) (bits : List Nat) : Byte :=
  bits.foldl (fun acc j => if k.getLsbD j then acc ^^^ xtimes j a else acc) acc

theorem gmul_eq_addProducts (a k : Byte) : gmul a k = addProducts a k 0 (List.range 8) := rfl

theorem addProducts_xor (a b k x y : Byte) (bits : List Nat) :
    addProducts (a ^^^ b) k (x ^^^ y) bits = addProducts a k x bits ^^^ addProducts b k y bits := by
  induction bits generalizing x y with
  | nil => rfl
  | cons j bits ih =>
    have hswap : (x ^^^ y) ^^^ (xtimes j a ^^^ xtimes j b) = (x ^^^ xtimes j a) ^^^ (y ^^^ xtimes j b) := by ac_rfl
    simp only [addProducts, List.foldl_cons] at ih ⊢
    cases k.getLsbD j
    · exact ih x y
    · rw [if_pos rfl, if_pos rfl, if_pos rfl, xtimes_xor, hswap]
      exact ih _ _

theorem gmul_xor (a b k : Byte) : gmul (a ^^^ b) k = gmul a k ^^^ gmul b k := by
  simp only [gmul_eq_addProducts]
  exact addProducts_xor a b k 0 0 (List.range 8)

/-! ## The column mix (R206, R208) -/

/-- The products of one byte with four coefficients. -/
def scaledColumn (a k0 k1 k2 k3 : Byte) : Column := ⟨gmul a k0, gmul a k1, gmul a k2, gmul a k3⟩

/-- The mix is the sum of the columns of its matrix, each scaled by one byte of the input. -/
theorem mixColumn_eq_xor (c : Column) : mixColumn c =
    (((scaledColumn c.r0 2 1 1 3).xor (scaledColumn c.r1 3 2 1 1)).xor (scaledColumn c.r2 1 3 2 1)).xor (scaledColumn c.r3 1 1 3 2) := rfl

theorem mixRow_xor (k0 k1 k2 k3 : Byte) (c d : Column) :
    mixRow k0 k1 k2 k3 (c.xor d) = mixRow k0 k1 k2 k3 c ^^^ mixRow k0 k1 k2 k3 d := by
  simp only [mixRow, Column.xor, gmul_xor]
  ac_rfl

/-- The products with the coefficients of both matrices (R206, R208). -/
theorem gmul_coefficients (a : Byte) : gmul a 1 = a ∧ gmul a 2 = xtime a ∧ gmul a 3 = a ^^^ xtime a ∧
    gmul a 0x09 = a ^^^ xtime (xtime (xtime a)) ∧ gmul a 0x0b = a ^^^ xtime a ^^^ xtime (xtime (xtime a)) ∧
    gmul a 0x0d = a ^^^ xtime (xtime a) ^^^ xtime (xtime (xtime a)) ∧
    gmul a 0x0e = xtime a ^^^ xtime (xtime a) ^^^ xtime (xtime (xtime a)) := by
  simp [gmul, List.range_succ, xtimes]

/-- The first row of the inverse matrix against the first column of the matrix is 1: every multiple by `xtime` occurs twice. -/
theorem mixRow_inverse_first (a : Byte) : mixRow 0x0e 0x0b 0x0d 0x09 (scaledColumn a 2 1 1 3) = a := by
  simp only [mixRow, scaledColumn, gmul_coefficients, xtime_xor]
  grind

/-- The first row of the inverse matrix against each other column of the matrix is 0: every multiple occurs twice. -/
theorem mixRow_inverse_others (a : Byte) : mixRow 0x0e 0x0b 0x0d 0x09 (scaledColumn a 3 2 1 1) = 0 ∧
    mixRow 0x0e 0x0b 0x0d 0x09 (scaledColumn a 1 3 2 1) = 0 ∧ mixRow 0x0e 0x0b 0x0d 0x09 (scaledColumn a 1 1 3 2) = 0 := by
  simp only [mixRow, scaledColumn, gmul_coefficients, xtime_xor]
  refine ⟨?_, ?_, ?_⟩ <;> grind

theorem mixRow_inverse_mixColumn (c : Column) : mixRow 0x0e 0x0b 0x0d 0x09 (mixColumn c) = c.r0 := by
  obtain ⟨h1, -, -⟩ := mixRow_inverse_others c.r1
  obtain ⟨-, h2, -⟩ := mixRow_inverse_others c.r2
  obtain ⟨-, -, h3⟩ := mixRow_inverse_others c.r3
  rw [mixColumn_eq_xor, mixRow_xor, mixRow_xor, mixRow_xor, mixRow_inverse_first, h1, h2, h3]
  simp

/-- The matrices are circulant: a row with its coefficients rotated is that row of the rotated column. -/
theorem mixRow_rotWord (k0 k1 k2 k3 : Byte) (c : Column) : mixRow k1 k2 k3 k0 (rotWord c) = mixRow k0 k1 k2 k3 c := by
  simp only [mixRow, rotWord]
  ac_rfl

theorem mixColumn_rotWord (c : Column) : mixColumn (rotWord c) = rotWord (mixColumn c) := by
  simp only [mixColumn, mixRow_rotWord]
  rfl

/-- Every row of the inverse mix is its first row on a rotated column. -/
theorem invMixColumn_eq (c : Column) : invMixColumn c = ⟨mixRow 0x0e 0x0b 0x0d 0x09 c, mixRow 0x0e 0x0b 0x0d 0x09 (rotWord c),
    mixRow 0x0e 0x0b 0x0d 0x09 (rotWord (rotWord c)), mixRow 0x0e 0x0b 0x0d 0x09 (rotWord (rotWord (rotWord c)))⟩ := by
  simp only [invMixColumn, mixRow_rotWord]

@[simp] theorem invMixColumn_mixColumn (c : Column) : invMixColumn (mixColumn c) = c := by
  simp only [invMixColumn_eq, ← mixColumn_rotWord, mixRow_inverse_mixColumn]
  rfl

/-! ## The other steps of a round (R203, R204, R206, R208) -/

theorem invSbox_sbox (x : Byte) : invSbox (sbox x) = x := by
  revert x
  decide +kernel

@[simp] theorem invSubBytes_subBytes (s : AesState) : invSubBytes (subBytes s) = s := by
  simp only [invSubBytes, subBytes, AesState.mapColumns, Column.map, invSbox_sbox]

@[simp] theorem invShiftRows_shiftRows (s : AesState) : invShiftRows (shiftRows s) = s := rfl

@[simp] theorem mapColumns_invMixColumn_mixColumn (s : AesState) : (s.mapColumns mixColumn).mapColumns invMixColumn = s := by
  simp only [AesState.mapColumns, invMixColumn_mixColumn]

/-- A block added twice goes away: `AddRoundKey` is its own inverse, and so is the chaining of CBC. -/
@[simp] theorem aesState_xor_xor_cancel (s k : AesState) : (s.xor k).xor k = s := by
  simp only [AesState.xor, Column.xor, BitVec.xor_assoc, BitVec.xor_self, BitVec.xor_zero]

/-! ## One block (R207, R209) -/

/-- A round of decryption undoes the round of encryption with its key and the next round's first two steps with it. -/
theorem decRound_encRound (w : List Column) (s : AesState) (r : Nat) :
    decRound w (shiftRows (subBytes (encRound w s r))) r = shiftRows (subBytes s) := by
  simp only [decRound, encRound, invShiftRows_shiftRows, invSubBytes_subBytes, aesState_xor_xor_cancel, mapColumns_invMixColumn_mixColumn]

/-- So do the rounds of decryption in reverse order for any list of rounds. -/
theorem foldl_decRound_encRound (w : List Column) (rs : List Nat) (s : AesState) :
    rs.reverse.foldl (decRound w) (shiftRows (subBytes (rs.foldl (encRound w) s))) = shiftRows (subBytes s) := by
  induction rs generalizing s with
  | nil => rfl
  | cons r rs ih => rw [List.foldl_cons, List.reverse_cons, List.foldl_append, ih, List.foldl_cons, List.foldl_nil, decRound_encRound]

@[simp] theorem decryptBlock_encryptBlock (w : List Column) (x : AesState) : decryptBlock w (encryptBlock w x) = x := by
  rw [decryptBlock, encryptBlock, aesState_xor_xor_cancel, foldl_decRound_encRound, invShiftRows_shiftRows, invSubBytes_subBytes,
    aesState_xor_xor_cancel]

@[simp] theorem ofBytes_bytes (s : AesState) : .ofBytes s.bytes = s := rfl

/-- A block of 16 bytes is read back from the state it fills (R201). -/
theorem bytes_ofBytes (b : Bytes) (h : b.length = 16) : (AesState.ofBytes b).bytes = b := by
  match b, h with
  | [_, _, _, _, _, _, _, _, _, _, _, _, _, _, _, _], _ => rfl

/-- Settles O50: decryption undoes the last round, the middle rounds in reverse order, and the first round key. -/
theorem aesDecryptInvertsEncrypt : Obligations.AesDecryptInvertsEncrypt := by
  intro key x _ hx
  rw [aesDec, aesEnc, ofBytes_bytes, decryptBlock_encryptBlock, bytes_ofBytes x hx]

/-! ## CBC (R220, R228) -/

@[simp] theorem cbcDecBlocks_cbcEncBlocks (w : List Column) (prev : AesState) (ps : List AesState) :
    cbcDecBlocks w prev (cbcEncBlocks w prev ps) = ps := by
  induction ps generalizing prev with
  | nil => rfl
  | cons p ps ih => rw [cbcEncBlocks, cbcDecBlocks, decryptBlock_encryptBlock, aesState_xor_xor_cancel, ih]

/-- A text with one block in front of it. -/
theorem textBlocks_append (b p : Bytes) (h : b.length = 16) : textBlocks (b ++ p) = .ofBytes b :: textBlocks p := by
  have hcount : (b ++ p).length / 16 = p.length / 16 + 1 := by
    rw [List.length_append, h]
    omega
  rw [textBlocks, hcount, blocks, List.take_left' h, List.drop_left' h]
  rfl

/-- The bytes of blocks are cut into those blocks again. -/
@[simp] theorem textBlocks_flatMap_bytes (bs : List AesState) : textBlocks (bs.flatMap AesState.bytes) = bs := by
  induction bs with
  | nil => rfl
  | cons b bs ih => rw [List.flatMap_cons, textBlocks_append _ _ (length_aesState_bytes b), ofBytes_bytes, ih]

/-- A text of whole blocks is the bytes of its blocks. -/
theorem flatMap_bytes_textBlocks (n : Nat) (p : Bytes) (h : p.length = 16 * n) : (textBlocks p).flatMap AesState.bytes = p := by
  induction n generalizing p with
  | zero =>
    cases List.eq_nil_of_length_eq_zero h
    rfl
  | succ n ih =>
    have htake : (p.take 16).length = 16 := by
      rw [List.length_take]
      omega
    have hdrop : (p.drop 16).length = 16 * n := by
      rw [List.length_drop]
      omega
    conv_lhs => rw [← List.take_append_drop 16 p, textBlocks_append _ _ htake]
    rw [List.flatMap_cons, bytes_ofBytes _ htake, ih _ hdrop, List.take_append_drop]

/-- CBC decryption inverts CBC encryption of whole blocks under the same key and IV (R228). -/
theorem cbcDecrypt_cbcEncrypt (k v p : Bytes) (n : Nat) (h : p.length = 16 * n) : cbcDecrypt k v (cbcEncrypt k v p) = p := by
  rw [cbcDecrypt, cbcEncrypt, textBlocks_flatMap_bytes, cbcDecBlocks_cbcEncBlocks, flatMap_bytes_textBlocks n p h]

/-! ## Zero padding (R222, R226) -/

theorem zeroUnpad_prefix (q : Bytes) : zeroUnpad q <+: q := List.takeWhile_prefix _

theorem zero_notMem_zeroUnpad (q : Bytes) : 0 ∉ zeroUnpad q := by
  intro h
  simpa using List.mem_takeWhile_imp h

/-- Unpadding stops at the end of a text or at a zero byte (R226). -/
theorem zeroUnpad_eq_or (q : Bytes) : zeroUnpad q = q ∨ q[(zeroUnpad q).length]? = some 0 := by
  induction q with
  | nil => exact .inl rfl
  | cons b q ih =>
    by_cases hb : b = 0
    · exact .inr (by simp [zeroUnpad, hb])
    · have hcons : zeroUnpad (b :: q) = b :: zeroUnpad q := List.takeWhile_cons_of_pos (by simpa using hb)
      rw [hcons]
      exact ih.imp (congrArg _) id

/-- Unpadding cuts at the first zero byte of a text, whatever follows it (R226). -/
theorem zeroUnpad_append_zero (p q : Bytes) (h : (0 : Byte) ∉ p) : zeroUnpad (p ++ 0 :: q) = p := by
  rw [zeroUnpad, List.takeWhile_append_of_pos fun b hb => by simpa using ne_of_mem_of_not_mem hb h]
  simp

/-- Padding a text without zero bytes is undone (R222, R226). -/
theorem zeroUnpad_zeroPad (p : Bytes) (h : (0 : Byte) ∉ p) : zeroUnpad (zeroPad p) = p := by
  rw [zeroPad]
  cases (16 - p.length % 16) % 16 with
  | zero => simpa [zeroUnpad, List.takeWhile_eq_self_iff] using fun b hb => ne_of_mem_of_not_mem hb h
  | succ n => exact zeroUnpad_append_zero p _ h

/-- Unpadding a text with a zero byte cuts it there, whatever the padding (R226). -/
theorem zeroUnpad_append_of_zero (p pad : Bytes) (z : Nat) (hz : p[z]? = some 0) (hfirst : ∀ j < z, p[j]? ≠ some 0) :
    zeroUnpad (p ++ pad) = p.take z := by
  obtain ⟨hlt, hget⟩ := List.getElem?_eq_some_iff.1 hz
  have hmem : (0 : Byte) ∉ p.take z := by
    intro h
    obtain ⟨j, hj, e⟩ := List.mem_take_iff_getElem.1 h
    exact hfirst j (by omega) (List.getElem?_eq_some_iff.2 ⟨by omega, e⟩)
  calc zeroUnpad (p ++ pad)
      = zeroUnpad (p.take z ++ 0 :: (p.drop (z + 1) ++ pad)) := by
        rw [← List.cons_append, ← List.append_assoc, ← hget, List.getElem_cons_drop, List.take_append_drop]
    _ = p.take z := zeroUnpad_append_zero _ _ hmem

/-! ## The message round trip (R229, R232) -/

/-- Decrypting a message gives its padded text back, unpadded. -/
theorem msgDecrypt_msgEncrypt (k v p : Bytes) : (msgDecrypt k v (msgEncrypt k v p).1).1 = zeroUnpad (zeroPad p) :=
  congrArg zeroUnpad (cbcDecrypt_cbcEncrypt k v (zeroPad p) _ (length_zeroPad p))

/-- Settles O51: both calls take the next IV from the same ciphertext, and unpadding undoes padding up to the first zero byte. -/
theorem messageRoundTrip : Obligations.MessageRoundTrip := by
  intro k v p _ _ _
  rw [msgDecrypt_msgEncrypt]
  exact ⟨rfl, zeroUnpad_zeroPad p, zeroUnpad_append_of_zero p _⟩

end Sys2Proof.Machine
end

section
/-! PROOFS. The statements about the session (spec/45_aes_cbc): the invariants of R231 over a step, what `ENC` (R223), `DEC` (R225) and
`SIGN` (R227) leave behind in every session state, and the transition table of `SESS` (R230). -/

namespace Sys2Proof.Machine

/-! ## The invariants (R231) -/

/-- Settles O9. -/
theorem resetIsGood : Obligations.ResetIsGood := inv_reset

/-- Settles O10: idling and `BADCMD` leave the session registers, every instruction keeps R231. -/
theorem everyStepKeepsTheSessionInvariants : Obligations.EveryStepKeepsTheSessionInvariants := by
  refine ⟨sessionInv_reset, fun s t hs h => ?_⟩
  rcases step_cases s with ⟨-, e⟩ | ⟨o, rest, i, -, -, e⟩ | ⟨o, rest, err, -, -, e⟩
  · cases e.symm.trans h
    exact hs
  · exact exec_sessionInv i { s with port := rest } t hs (e.symm.trans h)
  · cases e.symm.trans h
    exact hs

/-! ## The session commands on operands that fit -/

theorem withLiveSession_of_live (s : State) (body : Outcome) (h : s.sess = .derived ∨ s.sess = .active) :
    withLiveSession s body = body := if_pos ((live_iff _).2 h)

theorem withLiveSession_of_not_live (s : State) (body : Outcome) (h : s.sess = .uninit ∨ s.sess = .expired) :
    withLiveSession s body = .next (raise .needsRekey s) := by
  rw [withLiveSession, (not_live_iff _).2 h]
  rfl

section

variable {b : Bytes} {s : State}

/-- Past the operand check `ENC` looks at `SESS` (R223). -/
theorem exec_enc_of_fits (h : Fits b) : exec (.enc b) s = withLiveSession s (if b = [] then raised .operand s else
    readSecret .kApp s.kApp fun k => readSecret .ivApp s.ivApp fun v =>
      delivered (msgEncrypt k v b).1 { s with ivApp := some (msgEncrypt k v b).2, sess := .active }) :=
  withOperands_of_fits _ _ _ (by simpa using h)

/-- Past the operand check `DEC` looks at `SESS` (R225). -/
theorem exec_dec_of_fits (h : Fits b) : exec (.dec b) s = withLiveSession s
    (if b.length = 0 ∨ b.length % 16 ≠ 0 then raised .authFail s else
      readSecret .kDev s.kDev fun k => readSecret .ivDev s.ivDev fun v =>
        delivered (msgDecrypt k v b).1 { s with ivDev := some (msgDecrypt k v b).2, sess := .active }) :=
  withOperands_of_fits _ _ _ (by simpa using h)

/-- Past the operand check `SIGN` looks at `SESS` (R227). -/
theorem exec_sign_of_fits (h : Fits b) :
    exec (.sign b) s = withLiveSession s (readSecret .kSign s.kSign fun k => delivered (hmac k b) s) :=
  withOperands_of_fits _ _ _ (by simpa using h)

theorem exec_enc_of_not_live (h : Fits b) (hs : s.sess = .uninit ∨ s.sess = .expired) :
    exec (.enc b) s = .next (raise .needsRekey s) := by
  rw [exec_enc_of_fits h, withLiveSession_of_not_live s _ hs]

theorem exec_enc_empty (hs : s.sess = .derived ∨ s.sess = .active) : exec (.enc []) s = .next (raise .operand s) := by
  rw [exec_enc_of_fits (Nat.zero_le _), withLiveSession_of_live s _ hs, if_pos rfl, raised]

theorem exec_enc_of_live {k v : Bytes} (h : Fits b) (hb : b ≠ []) (hs : s.sess = .derived ∨ s.sess = .active) (hk : s.kApp = some k)
    (hv : s.ivApp = some v) : exec (.enc b) s = .next (complete noFlags (msgEncrypt k v b).1 .none
      { s with ivApp := some (msgEncrypt k v b).2, sess := .active }) := by
  rw [exec_enc_of_fits h, withLiveSession_of_live s _ hs, if_neg hb, hk, hv]
  rfl

theorem exec_dec_of_not_live (h : Fits b) (hs : s.sess = .uninit ∨ s.sess = .expired) :
    exec (.dec b) s = .next (raise .needsRekey s) := by
  rw [exec_dec_of_fits h, withLiveSession_of_not_live s _ hs]

theorem exec_dec_of_bad_length (h : Fits b) (hs : s.sess = .derived ∨ s.sess = .active) (hb : b.length = 0 ∨ b.length % 16 ≠ 0) :
    exec (.dec b) s = .next (raise .authFail s) := by
  rw [exec_dec_of_fits h, withLiveSession_of_live s _ hs, if_pos hb, raised]

theorem exec_dec_of_live {k v : Bytes} (h : Fits b) (hb : ¬ (b.length = 0 ∨ b.length % 16 ≠ 0))
    (hs : s.sess = .derived ∨ s.sess = .active) (hk : s.kDev = some k) (hv : s.ivDev = some v) :
    exec (.dec b) s = .next (complete noFlags (msgDecrypt k v b).1 .none
      { s with ivDev := some (msgDecrypt k v b).2, sess := .active }) := by
  rw [exec_dec_of_fits h, withLiveSession_of_live s _ hs, if_neg hb, hk, hv]
  rfl

theorem exec_sign_of_not_live (h : Fits b) (hs : s.sess = .uninit ∨ s.sess = .expired) :
    exec (.sign b) s = .next (raise .needsRekey s) := by
  rw [exec_sign_of_fits h, withLiveSession_of_not_live s _ hs]

theorem exec_sign_of_live {k : Bytes} (h : Fits b) (hs : s.sess = .derived ∨ s.sess = .active) (hk : s.kSign = some k) :
    exec (.sign b) s = .next (complete noFlags (hmac k b) .none s) := by
  rw [exec_sign_of_fits h, withLiveSession_of_live s _ hs, hk]
  rfl

end

/-- Settles O45: the three ends of `ENC`, and the lengths of its ciphertext and of the rotated IV. -/
theorem encEncryptsAndRotatesTheAppIv : Obligations.EncEncryptsAndRotatesTheAppIv :=
  ⟨fun _ _ hp hs => exec_enc_of_not_live hp hs, fun _ hs => exec_enc_empty hs, fun p k v _ hp hne hs hk hv =>
    ⟨exec_enc_of_live hp hne hs hk hv, length_msgEncrypt k v p, length_msgEncrypt_iv k v p hne⟩⟩

/-- Settles O46: the three ends of `DEC`; the plaintext is the part of the CBC text before its first zero byte. -/
theorem decDecryptsAndRotatesTheDeviceIv : Obligations.DecDecryptsAndRotatesTheDeviceIv := by
  refine ⟨fun c s hc hs => exec_dec_of_not_live hc hs, fun c s hc hs hlen => exec_dec_of_bad_length hc hs hlen,
    fun c k v s hc hs h0 h16 hk hv => ⟨zeroUnpad (cbcDecrypt k v c), ?_, zero_notMem_zeroUnpad _, zeroUnpad_prefix _, ?_⟩⟩
  · exact exec_dec_of_live hc (not_or.2 ⟨h0, not_not.2 h16⟩) hs hk hv
  · exact zeroUnpad_eq_or _

/-- Settles O47. -/
theorem signDeliversTheHmac : Obligations.SignDeliversTheHmac :=
  ⟨fun _ _ hp hs => exec_sign_of_not_live hp hs, fun p k _ hp hs hk => ⟨exec_sign_of_live hp hs hk, length_hmac k p⟩⟩

/-! ## The transition table of `SESS` (R230) -/

theorem live_of_not_dead (x : Sess) (h : ¬ (x = .uninit ∨ x = .expired)) : x = .derived ∨ x = .active := by
  cases x <;> simp at h ⊢

theorem dead_of_not_live (x : Sess) (h : ¬ (x = .derived ∨ x = .active)) : x = .uninit ∨ x = .expired := by
  cases x <;> simp at h ⊢

/-- In a live session R231 (a) provides every secret. -/
theorem exists_secret {s : State} {v : Option Bytes} (hv : v.isSome = s.sess.live) (hs : s.sess = .derived ∨ s.sess = .active) :
    ∃ b, v = some b := Option.isSome_iff_exists.1 (hv.trans ((live_iff _).2 hs))

section

variable {s t : State}

/-- `SETKEY` and `EXPIRE` end a live session and leave any other (R188, R190). -/
theorem sess_of_invalidate (s' : State) (ht : t = complete noFlags [] .none (invalidate s')) :
    if s'.sess = .derived ∨ s'.sess = .active
    then t.sess = .expired ∧ t.kSign = none ∧ t.kApp = none ∧ t.ivApp = none ∧ t.kDev = none ∧ t.ivDev = none
    else t.sess = s'.sess := by
  subst ht
  split
  · next hs =>
    rw [complete_invalidate_of_live s' hs]
    exact ⟨rfl, rfl, rfl, rfl, rfl, rfl⟩
  · next hs => rw [complete_invalidate_of_not_live s' (dead_of_not_live _ hs), State.withResults]

/-- Without a LAN key `DERIVE` raises `NO_LANKEY`, which R231 (b) allows in `UNINIT` alone (R189). -/
theorem sess_of_derive (ar dr atm dtm : Bytes) (hlan : SessNeedsLanKey s) (hfit : ∀ b ∈ [ar, dr, atm, dtm], Fits b)
    (h : exec (.derive ar dr atm dtm) s = .next t) :
    if s.lanKey = none then s.sess = .uninit ∧ t.status = 0x22 ∧ t.sess = s.sess else t.sess = .derived := by
  obtain ⟨har, hdr, hatm, hdtm⟩ : Fits ar ∧ Fits dr ∧ Fits atm ∧ Fits dtm := by simpa using hfit
  obtain ⟨hwithout, hwith⟩ := exec_derive_of_fits ar dr atm dtm s har hdr hatm hdtm
  cases hk : s.lanKey with
  | none =>
    cases (hwithout hk).symm.trans h
    exact ⟨by_contra fun hne => hlan hne hk, rfl, rfl⟩
  | some k =>
    cases (hwith k hk).symm.trans h
    rfl

theorem sess_of_enc (p : Bytes) (hsec : SecretsMatchSess s) (hfit : Fits p) (h : exec (.enc p) s = .next t) :
    if s.sess = .uninit ∨ s.sess = .expired then t.status = 0x20 ∧ t.sess = s.sess
    else if p = [] then t.status = 0x02 ∧ t.sess = s.sess else t.sess = .active := by
  obtain ⟨-, happ, hivApp, -, -⟩ := hsec
  split_ifs with hs hp
  · cases (exec_enc_of_not_live hfit hs).symm.trans h
    exact ⟨rfl, rfl⟩
  · subst hp
    cases (exec_enc_empty (live_of_not_dead _ hs)).symm.trans h
    exact ⟨rfl, rfl⟩
  · have hlive := live_of_not_dead _ hs
    obtain ⟨k, hk⟩ := exists_secret happ hlive
    obtain ⟨v, hv⟩ := exists_secret hivApp hlive
    cases (exec_enc_of_live hfit hp hlive hk hv).symm.trans h
    rfl

theorem sess_of_dec (c : Bytes) (hsec : SecretsMatchSess s) (hfit : Fits c) (h : exec (.dec c) s = .next t) :
    if s.sess = .uninit ∨ s.sess = .expired then t.status = 0x20 ∧ t.sess = s.sess
    else if c.length = 0 ∨ c.length % 16 ≠ 0 then t.status = 0x21 ∧ t.sess = s.sess else t.sess = .active := by
  obtain ⟨-, -, -, hdev, hivDev⟩ := hsec
  split_ifs with hs hc
  · cases (exec_dec_of_not_live hfit hs).symm.trans h
    exact ⟨rfl, rfl⟩
  · cases (exec_dec_of_bad_length hfit (live_of_not_dead _ hs) hc).symm.trans h
    exact ⟨rfl, rfl⟩
  · have hlive := live_of_not_dead _ hs
    obtain ⟨k, hk⟩ := exists_secret hdev hlive
    obtain ⟨v, hv⟩ := exists_secret hivDev hlive
    cases (exec_dec_of_live hfit hc hlive hk hv).symm.trans h
    rfl

theorem sess_of_sign (p : Bytes) (hfit : Fits p) (h : exec (.sign p) s = .next t) :
    t.sess = s.sess ∧ (s.sess = .uninit ∨ s.sess = .expired → t.status = 0x20) := by
  refine ⟨(sign_sameSession p s t h).1, fun hs => ?_⟩
  cases (exec_sign_of_not_live hfit hs).symm.trans h
  rfl

end

/-- Settles O20: row by row for the session instructions; every other leaves `SESS` as it is. -/
theorem sessFollowsItsTransitionTable : Obligations.SessFollowsItsTransitionTable := by
  intro i s t ⟨hsec, hlan, _⟩ hfit h
  cases hi : usesSession i with
  | false =>
    have hsame := (exec_sameSession i s t hi h).1
    cases i with
    | reset | setKey | derive | expire | enc | dec | sign => cases hi
    | _ => exact hsame
  | true =>
    rcases usesSession_cases i hi with rfl | ⟨k, rfl⟩ | ⟨ar, dr, atm, dtm, rfl⟩ | rfl | ⟨p, rfl⟩ | ⟨c, rfl⟩ | ⟨p, rfl⟩
    · cases h
      exact resetState_atReset s
    · have hk : Fits k := hfit k (List.mem_singleton.2 rfl)
      exact sess_of_invalidate { s with lanKey := some k } (Host.Outcome.next.inj (h.symm.trans (exec_setKey_of_fits k s hk)))
    · exact sess_of_derive ar dr atm dtm hlan hfit h
    · exact sess_of_invalidate s (Host.Outcome.next.inj (h.symm.trans (exec_expire s)))
    · exact sess_of_enc p hsec (hfit p (List.mem_singleton.2 rfl)) h
    · exact sess_of_dec c hsec (hfit c (List.mem_singleton.2 rfl)) h
    · exact sess_of_sign p (hfit p (List.mem_singleton.2 rfl)) h

end Sys2Proof.Machine
end

section
/-! PROOFS. The statements about the text forms (spec/45_aes_cbc R241 to R247). What the coders do with one byte or one group of four
characters is read as arithmetic on the digits and the alphabet written out; the statements about whole texts follow by recursion over the
bytes and the groups. -/

namespace Sys2Proof.Machine

/-! ## The text commands -/

theorem exec_b64e_of_fits (d : Bytes) (s : State) (h : Fits d) : exec (.b64e d) s = deliverText (b64Encode d) s :=
  withOperands_of_fits _ _ _ (by simpa using h)

theorem exec_b64d_of_fits (x : Bytes) (s : State) (h : Fits x) : exec (.b64d x) s = deliverDecoded .badB64 (b64Decode x) s :=
  withOperands_of_fits _ _ _ (by simpa using h)

theorem exec_hexe_of_fits (d : Bytes) (s : State) (h : Fits d) : exec (.hexe d) s = deliverText (hexEncode d) s :=
  withOperands_of_fits _ _ _ (by simpa using h)

theorem exec_hexd_of_fits (x : Bytes) (s : State) (h : Fits x) : exec (.hexd x) s = deliverDecoded .badHex (hexDecode x) s :=
  withOperands_of_fits _ _ _ (by simpa using h)

/-- An encoder whose text fits the output buffer delivers it. -/
theorem deliverText_of_fits (out : Bytes) (s : State) (h : out.length ≤ Config.obufSize) :
    deliverText out s = .next (s.withResults 0x00 0x00 out .none) := by
  rcases deliverText_cases out s with ⟨hlong, -⟩ | ⟨-, e⟩
  · exact absurd h (not_le.2 hlong)
  · exact e

theorem length_b64Encode (b : Bytes) : (b64Encode b).length = 4 * ((b.length + 2) / 3) := by
  induction b using b64Encode.induct with
  | case1 x y z rest ih =>
    simp only [b64Encode, List.length_cons, ih]
    omega
  | case2 | case3 | case4 => simp [b64Encode]

/-! ## The bits of bytes as arithmetic -/

/-- Bits shifted in below the bits of a byte. -/
theorem toNat_shiftLeft_or (a b : Byte) (k : Nat) (hk : k ≤ 8) (hb : b.toNat < 2 ^ k) :
    ((a <<< k) ||| b).toNat = (a.toNat * 2 ^ k + b.toNat) % 256 := by
  have hpow : 2 ^ 8 = 2 ^ (8 - k) * 2 ^ k := by rw [← pow_add, Nat.sub_add_cancel hk]
  have hmod : a.toNat * 2 ^ k % 2 ^ 8 = a.toNat % 2 ^ (8 - k) * 2 ^ k := by rw [hpow, Nat.mul_mod_mul_right]
  have hroom : (a.toNat % 2 ^ (8 - k) + 1) * 2 ^ k ≤ 2 ^ 8 := by
    rw [hpow]
    exact Nat.mul_le_mul_right _ (Nat.mod_lt _ (Nat.two_pow_pos _))
  have hor : a.toNat % 2 ^ (8 - k) * 2 ^ k ||| b.toNat = a.toNat % 2 ^ (8 - k) * 2 ^ k + b.toNat := by
    rw [← Nat.shiftLeft_eq, Nat.shiftLeft_add_eq_or_of_lt hb]
  rw [BitVec.toNat_or, BitVec.toNat_shiftLeft, Nat.shiftLeft_eq, hmod, hor]
  rw [Nat.add_mul] at hroom
  omega

theorem toNat_low_two (v : Byte) : (v &&& (3 : Byte)).toNat = v.toNat % 4 := by
  rw [BitVec.toNat_and]
  exact Nat.and_two_pow_sub_one_eq_mod v.toNat 2

theorem toNat_low_six (v : Byte) : (v &&& (63 : Byte)).toNat = v.toNat % 64 := by
  rw [BitVec.toNat_and]
  exact Nat.and_two_pow_sub_one_eq_mod v.toNat 6

theorem toNat_shiftRight (v : Byte) (k : Nat) : (v >>> k).toNat = v.toNat / 2 ^ k := by
  rw [BitVec.toNat_ushiftRight, Nat.shiftRight_eq_div_pow]

/-! ## Hex digits (R245, R246) -/

theorem hexDigit_eq (v : Byte) : hexDigit v = hexDigits.getD (v.toNat % 16) 0 := by
  revert v
  decide

theorem hexVal_hexDigit (v : Byte) : hexVal (hexDigit v) = some (v &&& 0x0F) := by
  revert v
  decide

/-- A digit in upper case has the same value (R245). -/
theorem hexVal_upper_hexDigit (v : Byte) : hexVal (if 0x61 ≤ hexDigit v then hexDigit v - 0x20 else hexDigit v) = some (v &&& 0x0F) := by
  revert v
  decide

theorem isSome_hexVal (c : Byte) : (hexVal c).isSome = true ↔ c ∈ hexDigits ∨ c ∈ hexDigitsUpper := by
  revert c
  decide

/-- The value of a digit is its place among the digits. -/
theorem toNat_hexVal (c v : Byte) (h : hexVal c = some v) : v.toNat = hexDigitValue c ∧ v.toNat < 16 := by
  have hall : ∀ c, (hexVal c).all (fun v => v.toNat == hexDigitValue c && decide (v.toNat < 16)) = true := by decide
  simpa [h] using hall c

/-- Two nibbles make a byte (R245). -/
theorem toNat_nibbles (hi lo : Byte) (hhi : hi.toNat < 16) (hlo : lo.toNat < 16) :
    ((hi <<< 4) ||| lo).toNat = 16 * hi.toNat + lo.toNat := by
  rw [toNat_shiftLeft_or hi lo 4 (by decide) hlo]
  omega

/-! ## Hex texts -/

/-- A pair of characters before a text (R245). -/
theorem hexDecode_cons_cons (a b : Byte) (rest out : Bytes) : hexDecode (a :: b :: rest) = some out ↔
    ∃ hi lo tail, hexVal a = some hi ∧ hexVal b = some lo ∧ hexDecode rest = some tail ∧ out = ((hi <<< 4) ||| lo) :: tail := by
  rw [hexDecode]
  cases hexVal a <;> cases hexVal b <;> cases hexDecode rest <;> simp [eq_comm]

/-- Digits that have the values of the encoder's, whatever their case, decode to the bytes (R245). -/
theorem hexDecode_map_hexEncode (f : Byte → Byte) (hf : ∀ v, hexVal (f (hexDigit v)) = some (v &&& 0x0F)) (b : Bytes) :
    hexDecode ((hexEncode b).map f) = some b := by
  induction b with
  | nil => rfl
  | cons x b ih =>
    refine (hexDecode_cons_cons ..).2 ⟨_, _, _, hf _, hf _, ih, ?_⟩
    have hbyte : (((x >>> 4) &&& 0x0F) <<< 4) ||| (x &&& 0x0F) = x := by
      apply BitVec.eq_of_toNat_eq
      have hhi := toNat_low_nibble (x >>> 4)
      have hlo := toNat_low_nibble x
      rw [toNat_nibbles _ _ (by omega) (by omega), hhi, hlo, toNat_high_nibble]
      omega
    rw [hbyte]

/-- The well-formed hex texts (R245). -/
theorem isSome_hexDecode : ∀ x : Bytes,
    (hexDecode x).isSome = true ↔ x.length % 2 = 0 ∧ ∀ c ∈ x, c ∈ hexDigits ∨ c ∈ hexDigitsUpper
  | [] => by simp [hexDecode]
  | [_] => by simp [hexDecode]
  | a :: b :: rest => by
    have hpair : (hexDecode (a :: b :: rest)).isSome = true ↔
        (hexVal a).isSome = true ∧ (hexVal b).isSome = true ∧ (hexDecode rest).isSome = true := by
      simp only [Option.isSome_iff_exists, hexDecode_cons_cons]
      grind
    rw [hpair, isSome_hexVal, isSome_hexVal, isSome_hexDecode rest, List.forall_mem_cons, List.forall_mem_cons, List.length_cons,
      List.length_cons, Nat.add_assoc, Nat.add_mod_right]
    tauto

/-- Byte `i` of a decoded text comes from characters `2i` and `2i + 1` (R245). -/
theorem toNat_getD_hexDecode : ∀ (x out : Bytes), hexDecode x = some out → ∀ i < out.length,
    (out.getD i 0).toNat = 16 * hexDigitValue (x.getD (2 * i) 0) + hexDigitValue (x.getD (2 * i + 1) 0)
  | [], _, h => by
    cases h
    exact fun i hi => absurd hi (Nat.not_lt_zero i)
  | [_], _, h => by cases h
  | a :: b :: rest, out, h => by
    obtain ⟨hi, lo, tail, ha, hb, hrest, rfl⟩ := (hexDecode_cons_cons a b rest out).1 h
    intro i hlt
    cases i with
    | zero =>
      obtain ⟨hva, hhi⟩ := toNat_hexVal a hi ha
      obtain ⟨hvb, hlo⟩ := toNat_hexVal b lo hb
      show ((hi <<< 4) ||| lo).toNat = 16 * hexDigitValue a + hexDigitValue b
      rw [toNat_nibbles hi lo hhi hlo, hva, hvb]
    | succ i => exact toNat_getD_hexDecode rest tail hrest i (Nat.lt_of_succ_lt_succ hlt)

/-! ## Base64 characters (R241) -/

theorem b64Char_eq (v : Byte) (h : v.toNat < 64) : b64Char v = b64Digit v.toNat := by
  revert v
  decide

theorem b64Val_b64Digit (v : Nat) (h : v < 64) : b64Val (b64Digit v) = some (BitVec.ofNat 8 v) := by
  revert v
  decide

theorem b64Digit_ne_pad (v : Nat) (h : v < 64) : b64Digit v ≠ b64Pad := by
  revert v
  decide

/-- A character has a value exactly when it stands in the alphabet, at the place of that value (R241). -/
theorem isSome_b64Val (c : Byte) : (b64Val c).isSome = true ↔ c ∈ b64Alphabet := by
  constructor
  · intro h
    obtain ⟨v, hv⟩ := Option.isSome_iff_exists.1 h
    have hplace : ∀ c, (b64Val c).all (fun v => b64Alphabet[v.toNat]? == some c) = true := by decide
    exact List.mem_of_getElem? (i := v.toNat) (by simpa [hv] using hplace c)
  · have hvalue : b64Alphabet.all (fun c => (b64Val c).isSome) = true := by decide
    exact List.all_eq_true.1 hvalue c

theorem b64Pad_notMem : b64Pad ∉ b64Alphabet := by decide

/-! ## Base64 groups (R242, R243) -/

/-- The 24 bits of three bytes (R242). -/
def groupBits (x y z : Byte) : Nat := x.toNat * 65536 + y.toNat * 256 + z.toNat

theorem b64Group_eq (x y z : Byte) : b64Group x y z = [b64Digit (groupBits x y z / 262144), b64Digit (groupBits x y z / 4096 % 64),
    b64Digit (groupBits x y z / 64 % 64), b64Digit (groupBits x y z % 64)] := rfl

theorem groupBits_div_lt (x y z : Byte) : groupBits x y z / 262144 < 64 := by
  have := x.isLt
  have := y.isLt
  have := z.isLt
  unfold groupBits
  omega

/-- Two bytes leave the low 6 of the 24 bits 0. -/
theorem groupBits_two_mod (x y : Byte) : groupBits x y 0 % 64 = 0 := by
  have h : (0 : Byte).toNat = 0 := rfl
  rw [groupBits, h]
  omega

/-- One byte leaves the low 12 of the 24 bits 0. -/
theorem groupBits_one_div_mod (x : Byte) : groupBits x 0 0 / 64 % 64 = 0 := by
  have h : (0 : Byte).toNat = 0 := rfl
  rw [groupBits, h]
  omega

/-- The encoder's four characters are those of the 24 bits (R242). -/
theorem b64Chars_eq_b64Group (x y z : Byte) : [b64Char (x >>> 2), b64Char (((x &&& 3) <<< 4) ||| (y >>> 4)),
    b64Char (((y &&& 15) <<< 2) ||| (z >>> 6)), b64Char (z &&& 63)] = b64Group x y z := by
  have hx := x.isLt
  have hy := y.isLt
  have hz := z.isLt
  have h0 : (x >>> 2).toNat = groupBits x y z / 262144 := by
    rw [toNat_shiftRight, groupBits]
    omega
  have h1 : (((x &&& 3) <<< 4) ||| (y >>> 4)).toNat = groupBits x y z / 4096 % 64 := by
    rw [toNat_shiftLeft_or _ _ 4 (by decide) (by rw [toNat_shiftRight]; omega), toNat_low_two, toNat_shiftRight, groupBits]
    omega
  have h2 : (((y &&& 15) <<< 2) ||| (z >>> 6)).toNat = groupBits x y z / 64 % 64 := by
    rw [toNat_shiftLeft_or _ _ 2 (by decide) (by rw [toNat_shiftRight]; omega), toNat_low_nibble, toNat_shiftRight, groupBits]
    omega
  have h3 : (z &&& 63).toNat = groupBits x y z % 64 := by
    rw [toNat_low_six, groupBits]
    omega
  have hlt := groupBits_div_lt x y z
  have hmod (n : Nat) : n % 64 < 64 := Nat.mod_lt n (by decide)
  rw [b64Group_eq, b64Char_eq _ (h0 ▸ hlt), b64Char_eq _ (h1 ▸ hmod _), b64Char_eq _ (h2 ▸ hmod _), b64Char_eq _ (h3 ▸ hmod _),
    h0, h1, h2, h3]

theorem b64Encode_cons (x y z : Byte) (rest : Bytes) : b64Encode (x :: y :: z :: rest) = b64Group x y z ++ b64Encode rest := by
  rw [← b64Chars_eq_b64Group]
  rfl

theorem b64Encode_two (x y : Byte) : b64Encode [x, y] = (b64Group x y 0).take 3 ++ [0x3D] := by
  simp [← b64Chars_eq_b64Group, b64Encode, b64Pad]

theorem b64Encode_one (x : Byte) : b64Encode [x] = (b64Group x 0 0).take 2 ++ [0x3D, 0x3D] := by
  simp [← b64Chars_eq_b64Group, b64Encode, b64Pad]

/-- The decoder's three bytes are those of the 24 bits (R243). -/
theorem b64Bytes_eq_b64GroupBytes (p q r s : Nat) (hp : p < 64) (hq : q < 64) (hr : r < 64) (hs : s < 64) :
    [(BitVec.ofNat 8 p <<< 2) ||| (BitVec.ofNat 8 q >>> 4), ((BitVec.ofNat 8 q &&& 15) <<< 4) ||| (BitVec.ofNat 8 r >>> 2),
      ((BitVec.ofNat 8 r &&& 3) <<< 6) ||| BitVec.ofNat 8 s] = b64GroupBytes p q r s := by
  have hval (v : Nat) (h : v < 64) : (BitVec.ofNat 8 v).toNat = v := Nat.mod_eq_of_lt (by omega)
  simp only [b64GroupBytes, List.cons.injEq, and_true]
  refine ⟨?_, ?_, ?_⟩ <;> apply BitVec.eq_of_toNat_eq
  · rw [toNat_shiftLeft_or _ _ 2 (by decide) (by rw [toNat_shiftRight, hval q hq]; omega), toNat_shiftRight, hval p hp, hval q hq,
      BitVec.toNat_ofNat]
    omega
  · rw [toNat_shiftLeft_or _ _ 4 (by decide) (by rw [toNat_shiftRight, hval r hr]; omega), toNat_shiftRight, toNat_low_nibble, hval q hq,
      hval r hr, BitVec.toNat_ofNat]
    omega
  · rw [toNat_shiftLeft_or _ _ 6 (by decide) (by rw [hval s hs]; omega), toNat_low_two, hval r hr, hval s hs, BitVec.toNat_ofNat]
    omega

section

variable {p q r s : Nat}

theorem b64Full_digits (hp : p < 64) (hq : q < 64) (hr : r < 64) (hs : s < 64) :
    b64Full (b64Digit p) (b64Digit q) (b64Digit r) (b64Digit s) = some (b64GroupBytes p q r s) := by
  rw [← b64Bytes_eq_b64GroupBytes p q r s hp hq hr hs]
  simp only [b64Full, b64Val_b64Digit, hp, hq, hr, hs]

theorem b64Decode_one_pad (hp : p < 64) (hq : q < 64) (hr : r < 64) :
    b64Decode [b64Digit p, b64Digit q, b64Digit r, b64Pad] = some ((b64GroupBytes p q r 0).take 2) := by
  rw [← b64Bytes_eq_b64GroupBytes p q r 0 hp hq hr (by decide)]
  simp only [b64Decode, b64Last, if_pos, if_neg (b64Digit_ne_pad r hr), b64Val_b64Digit, hp, hq, hr]
  rfl

theorem b64Decode_two_pads (hp : p < 64) (hq : q < 64) :
    b64Decode [b64Digit p, b64Digit q, b64Pad, b64Pad] = some ((b64GroupBytes p q 0 0).take 1) := by
  rw [← b64Bytes_eq_b64GroupBytes p q 0 0 hp hq (by decide) (by decide)]
  simp only [b64Decode, b64Last, if_pos, b64Val_b64Digit, hp, hq]
  rfl

end

/-- The last group without padding is a full group (R243). -/
theorem b64Last_of_ne_pad (p q r s : Byte) (hs : s ≠ b64Pad) : b64Last p q r s = b64Full p q r s := if_neg hs

/-- A full group before a text (R243). -/
theorem b64Decode_cons (p q r s : Byte) (rest head out : Bytes) (hs : s ≠ b64Pad) (hfull : b64Full p q r s = some head)
    (hrest : b64Decode rest = some out) : b64Decode (p :: q :: r :: s :: rest) = some (head ++ out) := by
  cases rest with
  | nil =>
    cases hrest
    rw [b64Decode, b64Last_of_ne_pad p q r s hs, hfull, List.append_nil]
  | cons c rest => rw [b64Decode.eq_3 p q r s (c :: rest) (List.cons_ne_nil c rest), hfull, hrest]

theorem b64Decode_digits (p q r s : Nat) (hp : p < 64) (hq : q < 64) (hr : r < 64) (hs : s < 64) (rest out : Bytes)
    (h : b64Decode rest = some out) :
    b64Decode ([b64Digit p, b64Digit q, b64Digit r, b64Digit s] ++ rest) = some (b64GroupBytes p q r s ++ out) :=
  b64Decode_cons _ _ _ _ rest _ out (b64Digit_ne_pad s hs) (b64Full_digits hp hq hr hs) h

/-! ## Base64 texts -/

/-- Cutting 24 bits into characters and putting them together gives the three bytes back (R242, R243). -/
theorem b64GroupBytes_groupBits (x y z : Byte) : b64GroupBytes (groupBits x y z / 262144) (groupBits x y z / 4096 % 64)
    (groupBits x y z / 64 % 64) (groupBits x y z % 64) = [x, y, z] := by
  have hx := x.isLt
  have hy := y.isLt
  have hz := z.isLt
  have hbits : groupBits x y z / 262144 * 262144 + groupBits x y z / 4096 % 64 * 4096 + groupBits x y z / 64 % 64 * 64 +
      groupBits x y z % 64 = groupBits x y z := by omega
  simp only [b64GroupBytes, hbits, List.cons.injEq, and_true]
  refine ⟨?_, ?_, ?_⟩ <;> apply BitVec.eq_of_toNat_eq <;> rw [BitVec.toNat_ofNat, groupBits] <;> omega

theorem b64Decode_b64Encode (b : Bytes) : b64Decode (b64Encode b) = some b := by
  have hlt (n : Nat) : n % 64 < 64 := Nat.mod_lt _ (by decide)
  induction b using b64Encode.induct with
  | case1 x y z rest ih =>
    rw [b64Encode_cons, b64Group_eq, b64Decode_digits _ _ _ _ (groupBits_div_lt x y z) (hlt _) (hlt _) (hlt _) _ _ ih,
      b64GroupBytes_groupBits]
    rfl
  | case2 x y =>
    have hbytes := b64GroupBytes_groupBits x y 0
    rw [groupBits_two_mod] at hbytes
    rw [b64Encode_two, b64Group_eq]
    exact (b64Decode_one_pad (groupBits_div_lt x y 0) (hlt _) (hlt _)).trans (by rw [hbytes]; rfl)
  | case3 x =>
    have hbytes := b64GroupBytes_groupBits x 0 0
    rw [groupBits_two_mod, groupBits_one_div_mod] at hbytes
    rw [b64Encode_one, b64Group_eq]
    exact (b64Decode_two_pads (groupBits_div_lt x 0 0) (hlt _)).trans (by rw [hbytes]; rfl)
  | case4 => rfl

/-! ## Well-formed base64 texts (R243) -/

/-- Characters of the alphabet, then none, one or two pad characters (R243). -/
def AlphabetThenPad (x : Bytes) : Prop :=
  ∃ body pad, x = body ++ pad ∧ (∀ c ∈ body, c ∈ b64Alphabet) ∧ (pad = [] ∨ pad = [0x3D] ∨ pad = [0x3D, 0x3D])

theorem alphabetThenPad_nil : AlphabetThenPad [] := ⟨[], [], rfl, by simp, .inl rfl⟩

/-- The first character belongs to the alphabet, unless the text is padding alone. -/
theorem alphabetThenPad_cons (c : Byte) (x : Bytes) :
    AlphabetThenPad (c :: x) ↔ (c ∈ b64Alphabet ∧ AlphabetThenPad x) ∨ (c = b64Pad ∧ (x = [] ∨ x = [b64Pad])) := by
  constructor
  · rintro ⟨body, pad, e, hbody, hpad⟩
    cases body with
    | nil => rcases hpad with rfl | rfl | rfl <;> cases e <;> simp [b64Pad]
    | cons b body =>
      cases e
      obtain ⟨hb, hbody⟩ := List.forall_mem_cons.1 hbody
      exact .inl ⟨hb, body, pad, rfl, hbody, hpad⟩
  · rintro (⟨hc, body, pad, rfl, hbody, hpad⟩ | ⟨rfl, rfl | rfl⟩)
    · exact ⟨c :: body, pad, rfl, List.forall_mem_cons.2 ⟨hc, hbody⟩, hpad⟩
    · exact ⟨[], _, rfl, by simp, .inr (.inl rfl)⟩
    · exact ⟨[], _, rfl, by simp, .inr (.inr rfl)⟩

/-- Two characters or more cannot all be the padding's second one. -/
theorem alphabetThenPad_cons_of_two_le (c : Byte) (x : Bytes) (h : 2 ≤ x.length) :
    AlphabetThenPad (c :: x) ↔ c ∈ b64Alphabet ∧ AlphabetThenPad x := by
  have hne : ¬ (x = [] ∨ x = [b64Pad]) := by rintro (rfl | rfl) <;> simp at h
  rw [alphabetThenPad_cons]
  tauto

theorem alphabetThenPad_pair (r s : Byte) :
    AlphabetThenPad [r, s] ↔ (r ∈ b64Alphabet ∧ (s ∈ b64Alphabet ∨ s = b64Pad)) ∨ (r = b64Pad ∧ s = b64Pad) := by
  simp [alphabetThenPad_cons, alphabetThenPad_nil]

theorem isSome_b64Full (p q r s : Byte) :
    (b64Full p q r s).isSome = true ↔ p ∈ b64Alphabet ∧ q ∈ b64Alphabet ∧ r ∈ b64Alphabet ∧ s ∈ b64Alphabet := by
  simp only [← isSome_b64Val, b64Full]
  cases b64Val p <;> cases b64Val q <;> cases b64Val r <;> cases b64Val s <;> simp

theorem isSome_b64Last (p q r s : Byte) :
    (b64Last p q r s).isSome = true ↔ p ∈ b64Alphabet ∧ q ∈ b64Alphabet ∧ AlphabetThenPad [r, s] := by
  have hpad := b64Pad_notMem
  rw [alphabetThenPad_pair]
  by_cases hs : s = b64Pad
  · subst hs
    by_cases hr : r = b64Pad
    · subst hr
      simp only [← isSome_b64Val, b64Last, if_pos]
      cases b64Val p <;> cases b64Val q <;> simp
    · simp only [← isSome_b64Val, b64Last, if_pos, if_neg hr]
      cases b64Val p <;> cases b64Val q <;> cases b64Val r <;> simp [hr]
  · rw [b64Last_of_ne_pad p q r s hs, isSome_b64Full]
    tauto

/-- More text after a group: the group is full and the rest is a text (R243). -/
theorem isSome_b64Decode_cons (p q r s : Byte) (rest : Bytes) (h : rest ≠ []) : (b64Decode (p :: q :: r :: s :: rest)).isSome = true ↔
    (b64Full p q r s).isSome = true ∧ (b64Decode rest).isSome = true := by
  rw [b64Decode.eq_3 p q r s rest h]
  cases b64Full p q r s <;> cases b64Decode rest <;> simp

/-- The well-formed base64 texts (R243). -/
theorem isSome_b64Decode : ∀ x : Bytes, (b64Decode x).isSome = true ↔ x.length % 4 = 0 ∧ AlphabetThenPad x
  | [] => by simp [b64Decode, alphabetThenPad_nil]
  | [_] | [_, _] | [_, _, _] => by simp [b64Decode]
  | [p, q, r, s] => by
    rw [b64Decode, isSome_b64Last, alphabetThenPad_cons_of_two_le p _ (by simp), alphabetThenPad_cons_of_two_le q _ (by simp)]
    simp
  | p :: q :: r :: s :: c :: rest => by
    rw [isSome_b64Decode_cons p q r s (c :: rest) (List.cons_ne_nil c rest), isSome_b64Full, isSome_b64Decode (c :: rest)]
    have hlength : (p :: q :: r :: s :: c :: rest).length % 4 = (c :: rest).length % 4 := by
      simp only [List.length_cons]
      omega
    rw [hlength]
    by_cases h4 : (c :: rest).length % 4 = 0
    · have hlong : 2 ≤ (c :: rest).length := by
        simp only [List.length_cons] at h4 ⊢
        omega
      rw [alphabetThenPad_cons_of_two_le p _ (by simp), alphabetThenPad_cons_of_two_le q _ (by simp),
        alphabetThenPad_cons_of_two_le r _ (by simp), alphabetThenPad_cons_of_two_le s _ hlong]
      tauto
    · simp only [h4, false_and, and_false]

/-! ## The statements -/

/-- Settles O54: base64 group by group, hex byte by byte for digits of either case. -/
theorem textRoundTrips : Obligations.TextRoundTrips :=
  ⟨b64Decode_b64Encode, fun b => by simpa using hexDecode_map_hexEncode id hexVal_hexDigit b,
    hexDecode_map_hexEncode _ hexVal_upper_hexDigit⟩

/-- Settles O53: the encoders' texts fit the output buffer, and one byte or one group is encoded as the spec writes it. -/
theorem textCommandsDeliverOrRaise : Obligations.TextCommandsDeliverOrRaise := by
  refine ⟨fun d s hd => ⟨?b64e, length_b64Encode d⟩, fun d s hd => ⟨?hexe, length_hexEncode d⟩, fun x b s hx hb => ?b64d,
    fun x b s hx hb => ?hexd, fun x s hx hb => ?badB64, fun x s hx hb => ?badHex, fun d => ?hexDigits, b64Encode_cons,
    fun x y => ⟨b64Encode_two x y, b64Encode_one x⟩, rfl, by decide, by decide, by decide⟩
  case b64e =>
    rw [exec_b64e_of_fits d s hd, deliverText_of_fits]
    rw [length_b64Encode, Config.obufSize]
    rw [Fits, Config.maxOperand] at hd
    omega
  case hexe =>
    rw [exec_hexe_of_fits d s hd, deliverText_of_fits]
    rw [length_hexEncode, Config.obufSize]
    rw [Fits, Config.maxOperand] at hd
    omega
  case b64d | badB64 =>
    rw [exec_b64d_of_fits x s hx, hb]
    rfl
  case hexd | badHex =>
    rw [exec_hexd_of_fits x s hx, hb]
    rfl
  case hexDigits =>
    have hbyte (b : Byte) : hexByte b = [hexDigits.getD (b.toNat / 16) 0, hexDigits.getD (b.toNat % 16) 0] := by
      have hlt := b.isLt
      rw [hexByte, hexDigit_eq, hexDigit_eq, toNat_high_nibble, Nat.mod_eq_of_lt (by omega : b.toNat / 16 < 16)]
    exact congrArg d.flatMap (funext hbyte)

/-- Settles O55: the well-formed texts, and what a group of characters or a pair of digits decodes to. -/
theorem malformedTextsExactly : Obligations.MalformedTextsExactly :=
  ⟨isSome_b64Decode, fun p q r s hp hq hr hs =>
      ⟨b64Decode_digits p q r s hp hq hr hs, b64Decode_one_pad hp hq hr, b64Decode_two_pads hp hq⟩,
    rfl, isSome_hexDecode, fun x out h => ⟨length_hexDecode x out h, toNat_getD_hexDecode x out h⟩, rfl⟩

end Sys2Proof.Machine
end

section
/-! PROOFS. The statement about the monitor view (spec/46_monitor_view R254 to R261): what each function of the view returns, which records it
cannot tell apart, and which profiles are accepted. -/

namespace Sys2Proof.Machine

/-! ## Codes and bits -/

/-- Without a record every code is unknown (R255). -/
@[simp] theorem viewCode_none (f : CodeField) : viewCode none f = none := rfl

/-- On a record every code is known (R255). -/
theorem exists_viewCode_some (r : MonitorRecord) (f : CodeField) : ∃ c, viewCode (some r) f = some c := ⟨_, rfl⟩

/-- Without a record every bit is unknown (R256). -/
@[simp] theorem viewBit_none (src : BitSource) (y k : Nat) : viewBit none src y k = none := rfl

/-- A byte has no bit above 7 (R256). -/
theorem viewBit_of_seven_lt (fr : Option MonitorRecord) (src : BitSource) {y k : Nat} (hk : 7 < k) : viewBit fr src y k = none := by
  cases fr with
  | none => rfl
  | some r => exact if_pos hk

/-- A bit 0 to 7 is read from the byte at the index, if the array has one (R256). -/
theorem viewBit_some_of_le_seven (r : MonitorRecord) (src : BitSource) (y : Nat) {k : Nat} (hk : k ≤ 7) :
    viewBit (some r) src y k = (sourceBytes r src)[y]?.map (·.getLsbD k) :=
  if_neg (Nat.not_lt.2 hk)

/-- Past the end of its array every bit is unknown (R256). -/
theorem viewBit_of_length_le (fr : Option MonitorRecord) (src : BitSource) {y k : Nat} (hy : ∀ r, (sourceBytes r src).length ≤ y) :
    viewBit fr src y k = none := by
  cases fr with
  | none => rfl
  | some r =>
    by_cases hk : 7 < k
    · exact viewBit_of_seven_lt _ src hk
    · rw [viewBit_some_of_le_seven r src y (Nat.not_lt.1 hk), List.getElem?_eq_none (hy r), Option.map_none]

/-! ## Flags -/

/-- A name without a flag definition has no value (R257). -/
theorem viewFlag_of_lookup_none {p : MonitorProfile} {n : Name} (h : p.flags.lookup n = none) (fr : Option MonitorRecord) :
    viewFlag p fr n = none := by
  rw [viewFlag, h]

/-- A flag is the bit of its definition, inverted if that says so (R257). -/
theorem viewFlag_of_lookup_some {p : MonitorProfile} {n : Name} {d : FlagDef} (h : p.flags.lookup n = some d) (fr : Option MonitorRecord) :
    viewFlag p fr n = (viewBit fr d.source d.byte d.bit).map (· ^^ d.invert) := by
  rw [viewFlag, h]

/-- Without a record every flag is unknown (R257). -/
@[simp] theorem viewFlag_none (p : MonitorProfile) (n : Name) : viewFlag p none n = none := by
  cases h : p.flags.lookup n with
  | none => exact viewFlag_of_lookup_none h none
  | some d => rw [viewFlag_of_lookup_some h, viewBit_none, Option.map_none]

/-- A flag that is not inverted is `bit_set` of its bit (R261 (d)). -/
theorem viewFlag_eq_bitSet {p : MonitorProfile} {n : Name} {src : BitSource} {y k : Nat} (h : p.flags.lookup n = some ⟨src, y, k, false⟩)
    (fr : Option MonitorRecord) : viewFlag p fr n = evalPredicate p fr (.bitSet src y k) := by
  simp [viewFlag_of_lookup_some h, evalPredicate]

/-- An inverted flag is `bit_clear` of its bit (R261 (d)). -/
theorem viewFlag_eq_bitClear {p : MonitorProfile} {n : Name} {src : BitSource} {y k : Nat} (h : p.flags.lookup n = some ⟨src, y, k, true⟩)
    (fr : Option MonitorRecord) : viewFlag p fr n = evalPredicate p fr (.bitClear src y k) := by
  simp [viewFlag_of_lookup_some h, evalPredicate]

/-! ## Enum names -/

/-- The character of a decimal digit stands that far above `'0'`, the byte `0x30`. -/
theorem ofNat_digitChar {n : Nat} (h : n < 10) : BitVec.ofNat 8 (Nat.digitChar n).toNat = 0x30 + BitVec.ofNat 8 n := by
  rw [Nat.toNat_digitChar_of_lt_ten h, BitVec.ofNat_add]
  rfl

/-- The model's digits of a code are the library's decimal digits of its value, as characters (R258). -/
theorem decimal_eq_toDigits (c : Byte) : decimal c = (Nat.toDigits 10 c.toNat).map fun d => BitVec.ofNat 8 d.toNat := by
  have hlt := c.isLt
  have hmod (n : Nat) : n % 10 < 10 := Nat.mod_lt n (by omega)
  simp only [decimal]
  split_ifs with h10 h100
  · simp [Nat.toDigits_of_lt_base h10, ofNat_digitChar h10, Nat.mod_eq_of_lt h10]
  · have hten : c.toNat / 10 < 10 := by omega
    simp [Nat.toDigits_of_base_le, Nat.not_lt.1 h10, Nat.toDigits_of_lt_base hten, ofNat_digitChar hten, ofNat_digitChar (hmod _),
      Nat.mod_eq_of_lt hten]
  · have hhundred : c.toNat / 10 / 10 < 10 := by omega
    have hten : 10 ≤ c.toNat / 10 := by omega
    rw [← Nat.div_div_eq_div_mul c.toNat 10 10]
    simp [Nat.toDigits_of_base_le, Nat.not_lt.1 h10, hten, Nat.toDigits_of_lt_base hhundred, ofNat_digitChar hhundred,
      ofNat_digitChar (hmod _), Nat.mod_eq_of_lt hhundred]

/-- A known code has the name of its table entry, or its decimal digits (R258). -/
theorem viewEnum_of_code {fr : Option MonitorRecord} {f : CodeField} {c : Byte} (hc : viewCode fr f = some c) (p : MonitorProfile) :
    viewEnum p fr f = some ((p.enums.lookup (f, c)).getD (decimal c)) := by
  rw [viewEnum, hc, Option.map_some]

/-! ## Predicates -/

/-- Without a record every predicate is unknown, of whichever kind (R259). -/
@[simp] theorem evalPredicate_none (p : MonitorProfile) (q : Predicate) : evalPredicate p none q = none := by
  cases q <;> simp [evalPredicate]

/-- A name with a predicate definition has the value of that definition (R259). -/
theorem viewPredicate_of_lookup_some {p : MonitorProfile} {n : Name} {q : Predicate} (h : p.predicates.lookup n = some q)
    (fr : Option MonitorRecord) : viewPredicate p fr n = evalPredicate p fr q := by
  rw [viewPredicate, h]

/-- Without a record every named predicate is unknown (R259). -/
@[simp] theorem viewPredicate_none (p : MonitorProfile) (n : Name) : viewPredicate p none n = none := by
  cases h : p.predicates.lookup n with
  | none => rw [viewPredicate, h]
  | some q => rw [viewPredicate_of_lookup_some h, evalPredicate_none]

section KnownCode

variable {fr : Option MonitorRecord} {f : CodeField} {c : Byte} (hc : viewCode fr f = some c) (p : MonitorProfile)
include hc

/-- `equals` on a known code (R259). -/
theorem evalPredicate_equals (v : Byte) : evalPredicate p fr (.equals f v) = some (decide (c = v)) := by
  rw [evalPredicate, hc, Option.map_some, beq_eq_decide]

/-- `not_equals` on a known code (R259). -/
theorem evalPredicate_notEquals (v : Byte) : evalPredicate p fr (.notEquals f v) = some (!decide (c = v)) := by
  rw [evalPredicate, hc, Option.map_some, bne, beq_eq_decide]

/-- `in_set` on a known code (R259). -/
theorem evalPredicate_inSet (vs : List Byte) : evalPredicate p fr (.inSet f vs) = some (decide (c ∈ vs)) := by
  rw [evalPredicate, hc, Option.map_some, List.contains_eq_mem]

/-- `not_in_set` on a known code (R259). -/
theorem evalPredicate_notInSet (vs : List Byte) : evalPredicate p fr (.notInSet f vs) = some (!decide (c ∈ vs)) := by
  rw [evalPredicate, hc, Option.map_some, List.contains_eq_mem]

end KnownCode

/-! ## Lookup -/

/-- A flag is found first (R260). -/
theorem viewLookup_of_flag {p : MonitorProfile} {n : Name} (h : p.flags.lookup n ≠ none) (fr : Option MonitorRecord) :
    viewLookup p fr n = .flag (viewFlag p fr n) :=
  if_pos (Option.isSome_iff_ne_none.2 h)

/-- A predicate is found where there is no flag of the name (R260). -/
theorem viewLookup_of_predicate {p : MonitorProfile} {n : Name} {q : Predicate} (hflag : p.flags.lookup n = none)
    (hpred : p.predicates.lookup n = some q) (fr : Option MonitorRecord) : viewLookup p fr n = .predicate (evalPredicate p fr q) := by
  simp [viewLookup, hflag, hpred, viewPredicate_of_lookup_some hpred]

/-- A name in neither table is not found (R260). -/
theorem viewLookup_of_neither {p : MonitorProfile} {n : Name} (hflag : p.flags.lookup n = none) (hpred : p.predicates.lookup n = none)
    (fr : Option MonitorRecord) : viewLookup p fr n = .notFound := by
  simp [viewLookup, hflag, hpred]

/-! ## The view reads codes and bits only -/

/-- Two frames that give the same codes and the same bits. -/
structure SameCodesAndBits (fr fr' : Option MonitorRecord) : Prop where
  code : ∀ f, viewCode fr f = viewCode fr' f
  bit : ∀ src y k, viewBit fr src y k = viewBit fr' src y k

/-- What a frame says besides its four codes, its switches and its alarms does not matter (R261 (f)). -/
theorem sameCodesAndBits_update (r : MonitorRecord) (d l a b : Byte) (rsv : Vector Byte 3) (c k : Half) (ts : Option (Vector Byte 4)) :
    SameCodesAndBits
      (some { r with direction := d, length := l, requestId := a, answerRequired := b, rsv := rsv, crc := c, timestamp := ts, rawlen := k })
      (some r) :=
  ⟨fun f => by cases f <;> rfl, fun src y k => by cases src <;> rfl⟩

section SameCodesAndBits

variable {fr fr' : Option MonitorRecord} (h : SameCodesAndBits fr fr') (p : MonitorProfile)
include h

/-- The same bits give the same flags. -/
theorem viewFlag_congr (n : Name) : viewFlag p fr n = viewFlag p fr' n := by
  simp only [viewFlag, h.bit]

/-- The same codes give the same enum names. -/
theorem viewEnum_congr (f : CodeField) : viewEnum p fr f = viewEnum p fr' f := by
  simp only [viewEnum, h.code]

/-- Each of the eight kinds reads a code, a flag or a bit (R259). -/
theorem evalPredicate_congr (q : Predicate) : evalPredicate p fr q = evalPredicate p fr' q := by
  cases q <;> simp only [evalPredicate, h.code, h.bit, viewFlag_congr h]

/-- A lookup's answer is a flag's value, a predicate's, or neither. -/
theorem viewLookup_congr (n : Name) : viewLookup p fr n = viewLookup p fr' n := by
  simp only [viewLookup, viewPredicate, viewFlag_congr h, evalPredicate_congr h]

end SameCodesAndBits

/-! ## Profiles -/

/-- The load-time test in terms of the two tables' names (R254). -/
theorem profileAccepted_iff (p : MonitorProfile) :
    profileAccepted p = true ↔ ∀ n, n ∈ p.flags.map Prod.fst → n ∉ p.predicates.map Prod.fst := by
  simp only [profileAccepted, List.all_eq_true, Bool.not_eq_true', List.any_eq_false, beq_iff_eq, List.mem_map, not_exists, not_and]
  exact ⟨fun h n ⟨e, he, hen⟩ q hq hqn => h e he q hq (hqn.trans hen.symm), fun h e he => h e.1 ⟨e, he, rfl⟩⟩

/-- An accepted profile is taken as it is given (R254). -/
theorem loadProfile_of_accepted {p : MonitorProfile} (h : profileAccepted p = true) : loadProfile (some p) = p := if_pos h

/-- With a rejected profile, or none, every name is not found (R302). -/
theorem viewLookup_of_not_accepted {o : Option MonitorProfile} (h : ∀ p, o = some p → profileAccepted p = false) (fr : Option MonitorRecord)
    (n : Name) : viewLookup (loadProfile o) fr n = .notFound := by
  obtain ⟨p, hp, haccepted, -⟩ | ⟨-, hempty⟩ := loadProfile_cases o
  · exact absurd haccepted (by simp [h p hp])
  · rw [hempty]
    exact viewLookup_of_neither rfl rfl fr

/-! ## The statement -/

/-- Settles O59: the laws of R261 from the values on a code or bit, and the lookup's three answers on the loaded profile. -/
theorem monitorViewLaws : Obligations.MonitorViewLaws := by
  refine ⟨fun p f n => ⟨rfl, viewFlag_none p n, viewPredicate_none p n, rfl⟩, fun p r f v vs => ?opposites,
    fun p fr n src y k => ⟨rfl, rfl⟩, fun p fr n src y k => ⟨fun h => viewFlag_eq_bitSet h fr, fun h => viewFlag_eq_bitClear h fr⟩,
    fun fr y k => ?outOfRange, fun p r n g q d l a b rsv c k ts => ?unread, profileAccepted_iff, fun p => loadProfile_of_accepted,
    fun o fr n h => viewLookup_of_not_accepted h fr n, fun s n => rfl, fun p fr n h => ?noFlag,
    fun r => ⟨rfl, rfl, rfl, rfl, fun y k hk => ?switches, fun y k hk => ?alarms⟩, fun p fr f c hc => ?onCode,
    fun p fr n src y k => ⟨rfl, rfl⟩, fun p fr n => ⟨fun h => viewLookup_of_flag h fr, fun d hflag hpred =>
      ⟨viewLookup_of_predicate hflag hpred fr, viewPredicate_of_lookup_some hpred fr⟩, fun hflag hpred => viewLookup_of_neither hflag hpred fr⟩⟩
  case opposites =>
    obtain ⟨c, hc⟩ := exists_viewCode_some r f
    exact ⟨⟨_, evalPredicate_equals hc p v, evalPredicate_notEquals hc p v⟩, _, evalPredicate_inSet hc p vs, evalPredicate_notInSet hc p vs⟩
  case outOfRange =>
    exact ⟨fun hy => viewBit_of_length_le fr .switches fun r => by simpa [sourceBytes] using Nat.succ_le_of_lt hy,
      fun hy => viewBit_of_length_le fr .alarms fun r => by simpa [sourceBytes] using Nat.succ_le_of_lt hy,
      fun hk => ⟨viewBit_of_seven_lt fr .switches hk, viewBit_of_seven_lt fr .alarms hk⟩⟩
  case unread =>
    have hsame := sameCodesAndBits_update r d l a b rsv c k ts
    exact ⟨viewLookup_congr hsame p n, viewEnum_congr hsame p g, hsame.code g, evalPredicate_congr hsame p q⟩
  case noFlag =>
    have hunknown := viewFlag_of_lookup_none h fr
    exact ⟨hunknown, congrArg (Option.map (!·)) hunknown⟩
  case switches | alarms =>
    rw [viewBit_some_of_le_seven r _ _ hk]
    simp [sourceBytes, y.isLt]
  case onCode =>
    refine ⟨fun n hn => ?_, fun hn => ?_, evalPredicate_equals hc p, evalPredicate_inSet hc p⟩
    · rw [viewEnum_of_code hc, hn, Option.getD_some]
    · rw [viewEnum_of_code hc, hn, Option.getD_none, decimal_eq_toDigits]

end Sys2Proof.Machine
end

section
/-! PROOFS. The statements about the statuses of the commands (spec/60_exceptions R275, R280). Each guard and each end of a command gets one
rule that says which statuses it adds; an instruction's own statuses are then read off its parts. -/

namespace Sys2Proof.Machine

/-- If the outcome is a next state, its `STATUS` is one of `allowed`. -/
def EndsWithin (allowed : List Byte) (o : Outcome) : Prop := ∀ t, o = .next t → t.status ∈ allowed

section

variable {allowed : List Byte} {s : State}

theorem endsWithin_next {t : State} (h : t.status ∈ allowed) : EndsWithin allowed (.next t) := fun _ ht => by
  cases ht
  exact h

theorem endsWithin_fault (r : Fault) : EndsWithin allowed (.fault r) := fun _ ht => by cases ht

/-- A command that completes ends with 0, whatever it delivers (R271). -/
theorem endsWithin_complete {f : Byte} {o : Bytes} {r : Res} : EndsWithin (0x00 :: allowed) (.next (complete f o r s)) :=
  endsWithin_next List.mem_cons_self

theorem endsWithin_raised {st : Status} (h : st.code ∈ allowed) : EndsWithin allowed (raised st s) := endsWithin_next h

/-! ## Guards -/

/-- With operands that fit, the operand check adds no status (R274). -/
theorem endsWithin_withOperands {ops : List Bytes} {body : Outcome} (hfit : ∀ b ∈ ops, Fits b) (h : EndsWithin allowed body) :
    EndsWithin allowed (withOperands ops s body) := by
  rw [withOperands_of_fits ops s body hfit]
  exact h

/-- The session check adds `NEEDS_REKEY`. -/
theorem endsWithin_withLiveSession {body : Outcome} (hrekey : 0x20 ∈ allowed) (h : EndsWithin allowed body) :
    EndsWithin allowed (withLiveSession s body) := by
  rcases withLiveSession_cases s body with ⟨-, e⟩ | ⟨-, e⟩ <;> rw [e]
  · exact endsWithin_raised hrekey
  · exact h

/-- Reading a register that holds none stops the model, which is no status. -/
theorem endsWithin_readSecret {reg : SecretReg} {v : Option Bytes} {k : Bytes → Outcome} (h : ∀ b, EndsWithin allowed (k b)) :
    EndsWithin allowed (readSecret reg v k) := by
  rcases readSecret_cases reg v k with ⟨b, -, e⟩ | ⟨-, e⟩ <;> rw [e]
  · exact h b
  · exact endsWithin_fault _

/-! ## Ends of commands -/

/-- A text decoder adds the status of a malformed text (R244, R247). -/
theorem endsWithin_deliverDecoded {st : Status} (out : Option Bytes) (h : st.code ∈ 0x00 :: allowed) :
    EndsWithin (0x00 :: allowed) (deliverDecoded st out s) := by
  rcases deliverDecoded_cases st out s with ⟨b, -, e⟩ | ⟨-, e⟩ <;> rw [e]
  · exact endsWithin_complete
  · exact endsWithin_raised h

/-- The strict decoder ends with 0 or the status of one of its four tests (R132, R137). -/
theorem endsWithin_monitor (f : Bytes) : EndsWithin [0x00, 0x10, 0x11, 0x12, 0x13] (.next (decodeMonitor f s)) := by
  rcases decodeMonitor_cases f s with ⟨st, hcheck, e⟩ | ⟨-, e⟩ <;> rw [e]
  · apply endsWithin_next
    rcases monitorCheck_status f st hcheck with rfl | rfl | rfl | rfl <;> simp [Status.code]
  · exact endsWithin_complete

theorem endsWithin_recipe (c : TlvTables) (f : Bytes) : EndsWithin (0x00 :: allowed) (.next (decodeRecipe c f s)) := by
  obtain ⟨flags, out, e⟩ := decodeRecipe_complete c f s
  rw [e]
  exact endsWithin_complete

theorem endsWithin_property (f : Bytes) : EndsWithin (0x00 :: allowed) (.next (decodeProperty f s)) := by
  obtain ⟨flags, out, r, e⟩ := decodeProperty_complete f s
  rw [e]
  exact endsWithin_complete

/-! ## Commands over the session registers -/

/-- `DERIVE` adds `NO_LANKEY` (R189). -/
theorem endsWithin_derive {ar dr atm dtm : Bytes} (hfit : ∀ b ∈ [ar, dr, atm, dtm], Fits b) :
    EndsWithin [0x00, 0x22] (exec (.derive ar dr atm dtm) s) := by
  refine endsWithin_withOperands hfit ?_
  cases s.lanKey with
  | none => exact endsWithin_raised (by decide)
  | some k => exact endsWithin_complete

/-- `ENC` adds `OPERAND` for the empty plaintext, in a live session (R223). -/
theorem endsWithin_enc {p : Bytes} (hfit : Fits p) : EndsWithin [0x00, 0x20, 0x02] (exec (.enc p) s) := by
  rw [exec_enc_of_fits hfit]
  refine endsWithin_withLiveSession (by decide) ?_
  split
  · exact endsWithin_raised (by decide)
  · exact endsWithin_readSecret fun _ => endsWithin_readSecret fun _ => endsWithin_complete

/-- `DEC` adds `AUTH_FAIL` for a bad length, in a live session (R225). -/
theorem endsWithin_dec {c : Bytes} (hfit : Fits c) : EndsWithin [0x00, 0x20, 0x21] (exec (.dec c) s) := by
  rw [exec_dec_of_fits hfit]
  refine endsWithin_withLiveSession (by decide) ?_
  split
  · exact endsWithin_raised (by decide)
  · exact endsWithin_readSecret fun _ => endsWithin_readSecret fun _ => endsWithin_complete

theorem endsWithin_sign {p : Bytes} (hfit : Fits p) : EndsWithin [0x00, 0x20] (exec (.sign p) s) := by
  rw [exec_sign_of_fits hfit]
  exact endsWithin_withLiveSession (by decide) (endsWithin_readSecret fun _ => endsWithin_complete)

/-- The texts of the encoders fit the output buffer, so they end with 0 (R242, R246). -/
theorem endsWithin_textEncoders {d : Bytes} (hfit : Fits d) :
    EndsWithin (0x00 :: allowed) (exec (.b64e d) s) ∧ EndsWithin (0x00 :: allowed) (exec (.hexe d) s) := by
  obtain ⟨hb64, hhex, -⟩ := textCommandsDeliverOrRaise
  rw [(hb64 d s hfit).1, (hhex d s hfit).1]
  exact ⟨endsWithin_complete, endsWithin_complete⟩

end

/-! ## The statements -/

/-- Settles O15, instruction by instruction from the rules of its guards and of its end. -/
theorem statusesOfEachCommand : Obligations.StatusesOfEachCommand := by
  intro i s t hfit h
  refine (?_ : EndsWithin (ownStatuses i) (exec i s)) t h
  have hone (b : Bytes) (hb : bytesOperands i = [b]) : Fits b := hfit b (hb ▸ List.mem_singleton.2 rfl)
  cases i with
  | nop | crcInit | tlvEnc | tlvName | brew | expire | tlvEntry1 | tlvEntry2 => exact endsWithin_complete
  | reset => exact endsWithin_next (List.mem_singleton.2 (resetState_status s))
  | crc16 | crcUpd | tlvDec | setKey | frameBrew => exact endsWithin_withOperands hfit endsWithin_complete
  | monDec | frameMonitor => exact endsWithin_withOperands hfit (endsWithin_monitor _)
  | rcpDec | frameRecipeProfile | frameRecipeDefault => exact endsWithin_withOperands hfit (endsWithin_recipe _ _)
  | propDec | frameProperty => exact endsWithin_withOperands hfit (endsWithin_property _)
  | derive => exact endsWithin_derive hfit
  | enc p => exact endsWithin_enc (hone p rfl)
  | dec c => exact endsWithin_dec (hone c rfl)
  | sign p => exact endsWithin_sign (hone p rfl)
  | b64e d => exact (endsWithin_textEncoders (hone d rfl)).1
  | hexe d => exact (endsWithin_textEncoders (hone d rfl)).2
  | b64d | hexd => exact endsWithin_withOperands hfit (endsWithin_deliverDecoded _ (by decide))

/-- Settles O21: `00` is a whole descriptor, so with more bytes after it it does not decode. -/
theorem nopClearsTheResults : Obligations.NopClearsTheResults := by
  refine ⟨fun s => rfl, test_decode_nop, fun s rest x tail hp => step_of_invalid s _ rest hp fun i hi => ?_⟩
  have htrailing : decode (0x00 :: x :: tail) = .error .trailing :=
    decode_append_trailing [0x00] (x :: tail) .nop test_decode_nop (List.cons_ne_nil x tail)
  cases hi.symm.trans htrailing

end Sys2Proof.Machine
end

section
/-! PROOFS. The statements about the hazards (spec/70_reset_and_hazards R301, R305): what `RESET` clears and what does not reset, and how far
a wrong IV reaches into a message. -/

namespace Sys2Proof.Machine

/-! ## A wrong IV (R228, R305 (d)) -/

@[simp] theorem column_xor_right_inj {a c d : Column} : a.xor c = a.xor d ↔ c = d := by
  cases c
  cases d
  simp [Column.xor]

/-- Adding to one block is injective. -/
@[simp] theorem aesState_xor_right_inj {x v w : AesState} : x.xor v = x.xor w ↔ v = w := by
  cases v
  cases w
  simp [AesState.xor]

theorem aesState_bytes_injective : Function.Injective AesState.bytes := fun x y h =>
  calc x = .ofBytes x.bytes := (ofBytes_bytes x).symm
    _ = .ofBytes y.bytes := congrArg _ h
    _ = y := ofBytes_bytes y

/-- Two IVs that fill the same block are equal. -/
theorem eq_of_ofBytes_eq {v w : Bytes} (hv : v.length = 16) (hw : w.length = 16) (h : AesState.ofBytes v = AesState.ofBytes w) : v = w := by
  rw [← bytes_ofBytes v hv, h, bytes_ofBytes w hw]

/-- The IV enters the first block only: the rest is decrypted after the first ciphertext block (R228). -/
theorem cbcDecrypt_append (k v b p : Bytes) (hb : b.length = 16) :
    cbcDecrypt k v (b ++ p) = ((decryptBlock (keyExpand k) (.ofBytes b)).xor (.ofBytes v)).bytes ++ cbcDecrypt k b p := by
  rw [cbcDecrypt, textBlocks_append b p hb, cbcDecBlocks, List.flatMap_cons, cbcDecrypt]

/-- Settles O52: the first block of the ciphertext takes the place of the IV for all that follows it, and within the first plaintext block
adding the IV is injective. -/
theorem wrongIvSpoilsOnlyTheFirstBlock : Obligations.WrongIvSpoilsOnlyTheFirstBlock := by
  intro k v w c _ hv hw hne hpos hmod
  obtain ⟨b, p, hb, rfl⟩ : ∃ b p : Bytes, b.length = 16 ∧ c = b ++ p :=
    ⟨c.take 16, c.drop 16, by rw [List.length_take]; omega, (List.take_append_drop 16 c).symm⟩
  have hblock (s : AesState) (q : Bytes) : (s.bytes ++ q).take 16 = s.bytes ∧ (s.bytes ++ q).drop 16 = q :=
    ⟨List.take_left' (length_aesState_bytes s), List.drop_left' (length_aesState_bytes s)⟩
  simp only [cbcDecrypt_append k _ b p hb, hblock]
  refine ⟨trivial, fun hfirst => hne (eq_of_ofBytes_eq hv hw ?_), rfl⟩
  exact aesState_xor_right_inj.1 (aesState_bytes_injective hfirst)

/-! ## `RESET` (R301) -/

/-- A whole descriptor with bytes after it raises `BADCMD` and only takes its offer from the port (R60, R65). -/
theorem step_of_trailing (s : State) (d extra : Bytes) (i : Instr) (rest : List Offer) (hd : decode d = .ok i) (hextra : extra ≠ [])
    (hp : s.port = .descriptor (d ++ extra) :: rest) :
    step s = .next (State.withResults { s with port := rest } 0x01 0x00 [] .none) := by
  refine step_of_invalid s _ rest hp fun j hj => ?_
  cases hj.symm.trans (decode_append_trailing d extra i hd hextra)

/-- Settles O8: `RESET` leaves no LAN key, and `01` is a whole descriptor, so with more bytes after it it does not decode. -/
theorem resetCommandClearsTheLanKey : Obligations.ResetCommandClearsTheLanKey := by
  refine ⟨test_decode_reset, fun s => ⟨resetState s, rfl, resetState_atReset s, fun ar dr atm dtm har hdr hatm hdtm => ?derive⟩,
    fun s rest x tail hp => ?trailing⟩
  case derive =>
    obtain ⟨hwithoutKey, -⟩ := exec_derive_of_fits ar dr atm dtm (resetState s) har hdr hatm hdtm
    exact hwithoutKey (resetState_lanKey s)
  case trailing => exact step_of_trailing s [0x01] (x :: tail) .reset rest test_decode_reset (List.cons_ne_nil x tail) hp

end Sys2Proof.Machine
end
